-- ==== Sys2Proof/Word.lean ====
section
/-!
DEFINITION. Words, bytes and the Frame value that cross the block's ports.
Spec: 00_scope R7 (bits and values), 10_state R27, R28, 41_frame R89.
-/
namespace Sys2Proof

/-- A byte: 8 bits, unsigned (R7). -/
abbrev Byte := BitVec 8

/-- A command word `cmd[23:0]` (R50). -/
abbrev CmdWord := BitVec 24

/-- A Frame value (R28, R89): control byte, 16-bit address, payload bytes.
The bound of 253 payload bytes is ENCODE's to check (R92), so a longer payload can be written down and offered to it. -/
structure Frame where
  ctrl    : Byte
  address : BitVec 16
  payload : List Byte
  deriving DecidableEq, Repr

/-- The Frame a command carries on its bundle lines when it has no Frame operand: all zeros, no payload. -/
def Frame.zero : Frame := { ctrl := 0, address := 0, payload := [] }

end Sys2Proof
end

