-- ==== Sys2Proof/Config.lean ====
section
/-!
DEFINITION. The block's parameters and constants (00_scope R6, 30_encoding R64).
N_LINKS is the length of a `Machine.System`; PLATFORM_MAP affects no rule (20_memory R42) and has no counterpart here.
-/
namespace Sys2Proof.Config

/-- ADDR_BYTES: the only value the block admits (R6). -/
abbrev addrBytes : Nat := 1

/-- PAYLOAD_MAX: the largest payload a one-byte L can declare (R6, R65). -/
abbrev payloadMax : Nat := 253

/-- L_MIN: the smallest declared length the parser accepts (R6, R101). -/
abbrev lMin : Nat := 3

/-- START_FIXED (R64). -/
abbrev startFixed : Byte := 0x10

/-- START_VAR (R64). -/
abbrev startVar : Byte := 0x68

/-- END_MARK (R64). -/
abbrev endMark : Byte := 0x16

end Sys2Proof.Config
end

