-- ==== Sys2Proof/Syntax.lean ====
section
/-!
DEFINITION. The block's commands as abstract terms: one constructor per row of spec/opcode_table.json
(30_encoding R51, R52, R56, R68, R69).
-/
namespace Sys2Proof

/-- The command set. A `c` operand is the control byte of `data`; a `v` operand is the new field value of `val`,
of the field's own width (R53); a Frame operand is the `frame_in` bundle, a chunk the `chunk_in` bundle (R56).
The two wire-frame rows hold the bytes after the start byte: the start byte is the row's only opcode (R64) and
the length follows R65, so a frame with a wrong marker, length pair or checksum is a term too. -/
inductive Instr where
  /-- `FEED b` (R97). -/
  | feed (b : Byte)
  /-- `RESET` (R111). -/
  | reset
  /-- `STATUS` (R109). -/
  | status
  /-- `TOFRAME` (R110). -/
  | toFrame
  /-- `GET.DIR c` (R73). -/
  | getDir (c : Byte)
  /-- `GET.PRM c` (R74). -/
  | getPrm (c : Byte)
  /-- `GET.FCB c` (R75). -/
  | getFcb (c : Byte)
  /-- `GET.FCV c` (R76). -/
  | getFcv (c : Byte)
  /-- `GET.ACD c` (R77). -/
  | getAcd (c : Byte)
  /-- `GET.DFC c` (R78). -/
  | getDfc (c : Byte)
  /-- `GET.FC c` (R79). -/
  | getFc (c : Byte)
  /-- `VIEW c` (R80). -/
  | view (c : Byte)
  /-- `SET.DIR c, v` (R81). -/
  | setDir (c : Byte) (v : BitVec 1)
  /-- `SET.PRM c, v` (R82). -/
  | setPrm (c : Byte) (v : BitVec 1)
  /-- `SET.FCB c, v` (R83). -/
  | setFcb (c : Byte) (v : BitVec 1)
  /-- `SET.FCV c, v` (R84). -/
  | setFcv (c : Byte) (v : BitVec 1)
  /-- `SET.ACD c, v` (R85). -/
  | setAcd (c : Byte) (v : BitVec 1)
  /-- `SET.DFC c, v` (R86). -/
  | setDfc (c : Byte) (v : BitVec 1)
  /-- `SET.FC c, v` (R87). -/
  | setFc (c : Byte) (v : BitVec 4)
  /-- `ENCODE f` (R92). -/
  | encode (f : Frame)
  /-- `HASPAYLOAD f` (R91). -/
  | hasPayload (f : Frame)
  /-- `DECODE chunk` (R108). -/
  | decode (chunk : List Byte)
  /-- A wire frame of 5 bytes beginning 0x10: control, address, checksum and end byte as received (R62). -/
  | frameFixed (c a cs e : Byte)
  /-- A wire frame of `L + 6` bytes beginning 0x68: the two length bytes, the repeated start byte and the
  `L + 2` bytes after it (control, address, payload, checksum, end) as received (R63). -/
  | frameVariable (l0 l1 start2 : Byte) (body : List Byte)
  deriving DecidableEq, Repr

/-- The spelling of a command's mnemonic (R68; the wire rows as the opcode table names them). -/
def Instr.mnemonic : Instr → String
  | .feed _ => "FEED"
  | .reset => "RESET"
  | .status => "STATUS"
  | .toFrame => "TOFRAME"
  | .getDir _ => "GET.DIR"
  | .getPrm _ => "GET.PRM"
  | .getFcb _ => "GET.FCB"
  | .getFcv _ => "GET.FCV"
  | .getAcd _ => "GET.ACD"
  | .getDfc _ => "GET.DFC"
  | .getFc _ => "GET.FC"
  | .view _ => "VIEW"
  | .setDir _ _ => "SET.DIR"
  | .setPrm _ _ => "SET.PRM"
  | .setFcb _ _ => "SET.FCB"
  | .setFcv _ _ => "SET.FCV"
  | .setAcd _ _ => "SET.ACD"
  | .setDfc _ _ => "SET.DFC"
  | .setFc _ _ => "SET.FC"
  | .encode _ => "ENCODE"
  | .hasPayload _ => "HASPAYLOAD"
  | .decode _ => "DECODE"
  | .frameFixed _ _ _ _ => "FRAME.FIXED"
  | .frameVariable _ _ _ _ => "FRAME.VARIABLE"

end Sys2Proof
end

