-- ==== Sys2Proof/WellFormed.lean ====
section
/-!
DEFINITION. Which command terms the block's encodings can spell.
Operand widths are in the constructors' types; the one check left is the length of a variable wire frame (30_encoding R63, R65).
-/
namespace Sys2Proof

/-- A variable wire frame is `L + 6` bytes in all, so `L + 2` of them follow the repeated start byte (R65).
Every other command is well formed as it stands: a payload over 253 bytes is a term ENCODE answers with a fault (R92)
and HASPAYLOAD answers plainly (R91), and a chunk may have any length (R108). -/
def Instr.wellFormed : Instr → Bool
  | .frameVariable l0 _ _ body => body.length == l0.toNat + 2
  | _ => true

end Sys2Proof
end

