-- ==== Sys2Proof/Decode.lean ====
section
/-!
DEFINITION. The command port's encodings: what the caller may present, the decoder and the encoder
(30_encoding R50 to R56, R62 to R65, R69; opcode_table.json).
-/
namespace Sys2Proof

/-- One transaction the caller presents at the command port.
DESIGN CHOICE (log entry 7): the spec passes bundles as structured values and gives them no bit layout (R56), so the three
shapes below are told apart by their constructor, not by bits. -/
inductive Request where
  /-- A 24-bit command word with the `frame_in` bundle beside it (R50, R56). Only ENCODE and HASPAYLOAD read the bundle. -/
  | command (word : CmdWord) (frameIn : Frame)
  /-- The pseudo-command DECODE with its `chunk_in` bundle (R56, R69). -/
  | chunk (bytes : List Byte)
  /-- The bytes of one wire frame, as the transport delivers them (R62 to R65). -/
  | wire (bytes : List Byte)
  deriving DecidableEq, Repr

/-- Why a word spells no command (R55), or why bytes spell no whole wire frame (R64, R65). -/
inductive DecodeError where
  /-- `op` is 0x0 or 0x9..0xF. -/
  | reservedOp
  /-- `op` 0x5 with `sel` ≥ 0x8, or `op` 0x6 with `sel` ≥ 0x7. -/
  | reservedSel
  /-- `sel` must be 0 for this group and is not. -/
  | nonzeroSel
  /-- `val`, or the bits of `val` above the field's width, must be 0 and is not. -/
  | nonzeroVal
  /-- `data` must be 0 for this group and is not. -/
  | nonzeroData
  /-- The first byte is neither 0x10 nor 0x68, or there is none. -/
  | noStartByte
  /-- The byte count is not the one the start byte and L give. -/
  | frameLength
  deriving DecidableEq, Repr

/-! ### Fields of the command word (R50) -/

def opField (w : CmdWord) : BitVec 4 := w.extractLsb' 20 4
def selField (w : CmdWord) : BitVec 4 := w.extractLsb' 16 4
def valField (w : CmdWord) : Byte := w.extractLsb' 8 8
def dataField (w : CmdWord) : Byte := w.extractLsb' 0 8

/-- The command word with the four fields in place (R50). -/
def cmdWord (op sel : BitVec 4) (val data : Byte) : CmdWord := op ++ sel ++ val ++ data

/-! ### Decoding command words -/

/-- A word of a group whose `sel` and `val` must be 0 (R50). -/
def decodeByteOperand (w : CmdWord) (mk : Byte → Instr) : Except DecodeError Instr :=
  if selField w ≠ 0 then .error .nonzeroSel
  else if valField w ≠ 0 then .error .nonzeroVal
  else .ok (mk (dataField w))

/-- A word of a group with no operand in the word: `sel`, `val` and `data` must be 0 (R50). -/
def decodeBare (w : CmdWord) (i : Instr) : Except DecodeError Instr :=
  if selField w ≠ 0 then .error .nonzeroSel
  else if valField w ≠ 0 then .error .nonzeroVal
  else if dataField w ≠ 0 then .error .nonzeroData
  else .ok i

/-- GET and VIEW (R52): `val` must be 0. -/
def decodeGet (w : CmdWord) : Except DecodeError Instr :=
  if 8 ≤ (selField w).toNat then .error .reservedSel
  else if valField w ≠ 0 then .error .nonzeroVal
  else match (selField w).toNat with
    | 0 => .ok (.getDir (dataField w))
    | 1 => .ok (.getPrm (dataField w))
    | 2 => .ok (.getFcb (dataField w))
    | 3 => .ok (.getFcv (dataField w))
    | 4 => .ok (.getAcd (dataField w))
    | 5 => .ok (.getDfc (dataField w))
    | 6 => .ok (.getFc (dataField w))
    | _ => .ok (.view (dataField w))

/-- A setter of a 1-bit field: the value is `val[0]` and `val[7:1]` must be 0 (R53). -/
def decodeSetBit (w : CmdWord) (mk : Byte → BitVec 1 → Instr) : Except DecodeError Instr :=
  if (valField w).extractLsb' 1 7 ≠ 0 then .error .nonzeroVal
  else .ok (mk (dataField w) ((valField w).extractLsb' 0 1))

/-- SET.FC: the value is `val[3:0]` and `val[7:4]` must be 0 (R53). -/
def decodeSetFc (w : CmdWord) : Except DecodeError Instr :=
  if (valField w).extractLsb' 4 4 ≠ 0 then .error .nonzeroVal
  else .ok (.setFc (dataField w) ((valField w).extractLsb' 0 4))

/-- SET (R52): selectors 0x7..0xF are reserved. -/
def decodeSet (w : CmdWord) : Except DecodeError Instr :=
  match (selField w).toNat with
  | 0 => decodeSetBit w .setDir
  | 1 => decodeSetBit w .setPrm
  | 2 => decodeSetBit w .setFcb
  | 3 => decodeSetBit w .setFcv
  | 4 => decodeSetBit w .setAcd
  | 5 => decodeSetBit w .setDfc
  | 6 => decodeSetFc w
  | _ => .error .reservedSel

/-- The command a word spells, with its `frame_in` bundle, or the reason R55 reserves it. -/
def decodeCommand (w : CmdWord) (frameIn : Frame) : Except DecodeError Instr :=
  match (opField w).toNat with
  | 1 => decodeByteOperand w .feed
  | 2 => decodeBare w .reset
  | 3 => decodeBare w .status
  | 4 => decodeBare w .toFrame
  | 5 => decodeGet w
  | 6 => decodeSet w
  | 7 => decodeBare w (.encode frameIn)
  | 8 => decodeBare w (.hasPayload frameIn)
  | _ => .error .reservedOp

/-! ### Decoding wire frames -/

/-- The bytes of one wire frame (R64, R65): the start byte selects the row, and the byte count must be
5, or `L + 6` with L the byte at index 1. -/
def decodeWire : List Byte → Except DecodeError Instr
  | [] => .error .noStartByte
  | s :: rest =>
    if s = Config.startFixed then
      match rest with
      | [c, a, cs, e] => .ok (.frameFixed c a cs e)
      | _ => .error .frameLength
    else if s = Config.startVar then
      match rest with
      | l0 :: l1 :: start2 :: body =>
        if body.length = l0.toNat + 2 then .ok (.frameVariable l0 l1 start2 body) else .error .frameLength
      | _ => .error .frameLength
    else .error .noStartByte

/-- The decoder, total on every transaction. Bytes offered as a wire frame that spell none are an ordinary chunk:
the parser takes any bytes (R49, R55), so they are read as DECODE (log entry 7). -/
def decode : Request → Except DecodeError Instr
  | .command w f => decodeCommand w f
  | .chunk bytes => .ok (.decode bytes)
  | .wire bytes =>
    match decodeWire bytes with
    | .ok i => .ok i
    | .error _ => .ok (.decode bytes)

/-! ### The encoder -/

/-- The transaction that spells a command, from the tables of R51, R52, R53, R62 and R63. -/
def encode : Instr → Request
  | .feed b => .command (cmdWord 0x1 0x0 0 b) Frame.zero
  | .reset => .command (cmdWord 0x2 0x0 0 0) Frame.zero
  | .status => .command (cmdWord 0x3 0x0 0 0) Frame.zero
  | .toFrame => .command (cmdWord 0x4 0x0 0 0) Frame.zero
  | .getDir c => .command (cmdWord 0x5 0x0 0 c) Frame.zero
  | .getPrm c => .command (cmdWord 0x5 0x1 0 c) Frame.zero
  | .getFcb c => .command (cmdWord 0x5 0x2 0 c) Frame.zero
  | .getFcv c => .command (cmdWord 0x5 0x3 0 c) Frame.zero
  | .getAcd c => .command (cmdWord 0x5 0x4 0 c) Frame.zero
  | .getDfc c => .command (cmdWord 0x5 0x5 0 c) Frame.zero
  | .getFc c => .command (cmdWord 0x5 0x6 0 c) Frame.zero
  | .view c => .command (cmdWord 0x5 0x7 0 c) Frame.zero
  | .setDir c v => .command (cmdWord 0x6 0x0 (v.zeroExtend 8) c) Frame.zero
  | .setPrm c v => .command (cmdWord 0x6 0x1 (v.zeroExtend 8) c) Frame.zero
  | .setFcb c v => .command (cmdWord 0x6 0x2 (v.zeroExtend 8) c) Frame.zero
  | .setFcv c v => .command (cmdWord 0x6 0x3 (v.zeroExtend 8) c) Frame.zero
  | .setAcd c v => .command (cmdWord 0x6 0x4 (v.zeroExtend 8) c) Frame.zero
  | .setDfc c v => .command (cmdWord 0x6 0x5 (v.zeroExtend 8) c) Frame.zero
  | .setFc c v => .command (cmdWord 0x6 0x6 (v.zeroExtend 8) c) Frame.zero
  | .encode f => .command (cmdWord 0x7 0x0 0 0) f
  | .hasPayload f => .command (cmdWord 0x8 0x0 0 0) f
  | .decode chunk => .chunk chunk
  | .frameFixed c a cs e => .wire [Config.startFixed, c, a, cs, e]
  | .frameVariable l0 l1 start2 body => .wire (Config.startVar :: l0 :: l1 :: start2 :: body)

/-! ### Words numbered as the opcode table numbers them -/

/-- Byte `k` of a number, byte 0 lowest. -/
def byteOf (w k : Nat) : Byte := BitVec.ofNat 8 (w / 256 ^ k)

/-- How many bytes the wire frame that begins with the low bytes of `w` has (R65); 1 where no frame begins so. -/
def wireLength (w : Nat) : Nat :=
  if byteOf w 0 = Config.startFixed then 5
  else if byteOf w 0 = Config.startVar then (byteOf w 1).toNat + 6
  else 1

/-- The transaction whose bits are `w`: a CMD24 row gives 24 bits and is a command word; a WIRE row gives its opcode
byte, the first on the wire, and its later bytes count on from it (operand bytes above `nbits` are zeros of `w`).
The bundle of a command word is `Frame.zero`. -/
def tableRequest (nbits w : Nat) : Request :=
  if nbits = 24 then .command (BitVec.ofNat 24 w) Frame.zero
  else .wire ((List.range (wireLength w)).map (byteOf w))

/-- The command the decoder reads from an instruction whose bits are `w` (none where the word is reserved). -/
def decodeTableWord (nbits w : Nat) : Option Instr :=
  (decode (tableRequest nbits w)).toOption

end Sys2Proof
end

