-- ==== Sys2Proof/Machine/State.lean ====
section
/-!
DEFINITION. The state of one block instance (10_state R12), the responses it gives (30_encoding R57) and the
command port's queues. Plain data.
-/
namespace Sys2Proof.Machine

/-- The parse state `st` (R13), in the source's order. -/
inductive ParseState where
  /-- waiting for the first byte -/
  | awaitStart
  /-- variable path: waiting for the first L -/
  | awaitLength0
  /-- variable path: waiting for the second L -/
  | awaitLength1
  /-- variable path: waiting for the second 0x68 -/
  | awaitRepeatedStart
  /-- waiting for the control byte -/
  | awaitControl
  /-- waiting for the address byte -/
  | awaitAddress
  /-- variable path: waiting for payload bytes -/
  | awaitPayload
  /-- waiting for the checksum byte -/
  | awaitChecksum
  /-- waiting for the end byte -/
  | awaitEnd
  /-- terminal -/
  | done
  deriving DecidableEq, Repr

/-- The classification `cls` (R15), the block's only flag. -/
inductive Classification where
  | needMoreData
  | noError
  | badFormat
  | checkError
  deriving DecidableEq, Repr

/-- The path the start byte chose (R17). -/
inductive Kind where
  | fixed
  | variable
  deriving DecidableEq, Repr

/-- The parser's registers (R12). `addr` is 8·ADDR_BYTES bits, 8 in the admitted configuration (R19). -/
structure ParserRegs where
  st   : ParseState
  cls  : Classification
  kind : Kind
  ctrl : Byte
  addr : Byte
  len0 : Byte
  len1 : Byte
  pbuf : List Byte
  csrx : Byte
  deriving DecidableEq, Repr

/-- The reset values of every register (R31). -/
def ParserRegs.reset : ParserRegs :=
  { st := .awaitStart, cls := .needMoreData, kind := .fixed, ctrl := 0x00, addr := 0x00,
    len0 := 0x00, len1 := 0x00, pbuf := [], csrx := 0x00 }

/-- How a command ended (R9, R57). -/
inductive OutcomeCode where
  | ok
  | none
  | hold
  | fault
  | refused
  deriving DecidableEq, Repr

/-- The causes of a FAULT response (R122). -/
inductive FaultCode where
  /-- TOFRAME with `cls ≠ NoError`. -/
  | toFrameNotReady
  /-- ENCODE of more than 253 payload bytes. -/
  | encodeTooLong
  deriving DecidableEq, Repr

/-- The causes of a REFUSED response (R123). -/
inductive RefusalCode where
  /-- The command word is reserved (R55). -/
  | illegalCommand
  /-- The instance is configured with ADDR_BYTES ≠ 1. -/
  | addrWidthUnsupported
  deriving DecidableEq, Repr

/-- A command's response (R57): outcome, rdata and the bundle, if any (R56). -/
structure Response where
  outcome  : OutcomeCode
  rdata    : Byte
  frameOut : Option Frame
  bytesOut : Option (List Byte)
  deriving DecidableEq, Repr

/-- Why the machine itself stops. The FAULT and REFUSED outcomes of R122 and R123 are responses, not these:
the block goes on after them (log entry 1). -/
inductive Fault where
  /-- PbufAppend on a full buffer, whose precondition R35 states and for whose breach the spec gives no effect.
  Raised by FEED, DECODE and the wire-frame rows. Safe: no state reachable from reset meets it (R21). -/
  | pbufOverflow
  deriving DecidableEq, Repr

/-- Why an instruction has no meaning. -/
inductive Refusal where
  /-- The dispatcher's answer for a constructor without a meaning. Safe. No arm answers it in this model. -/
  | notModelled (mnemonic : String)
  deriving DecidableEq, Repr

/-- The state of one instance. -/
structure State where
  /-- ADDR_BYTES, the configuration input fixed at build time (R6, R24). No command writes it. -/
  addrBytes : Nat
  /-- The parser's registers (R12). -/
  parser : ParserRegs
  /-- The model's own: the caller's commands not yet served, oldest first (R44). -/
  pending : List Request
  /-- The model's own: the responses delivered so far, newest first (R57, R151). -/
  responses : List Response
  /-- The model's own: the results the pseudo-command DECODE has returned to the caller, newest first (R49, R69, R108). -/
  counts : List Nat
  deriving DecidableEq, Repr

/-- Power-on (R138): the parser in its reset state, the admitted configuration, nothing issued, answered or counted.
The three lists' values are DESIGN CHOICE (log entries 3, 4 and 6). -/
def State.reset : State :=
  { addrBytes := Config.addrBytes, parser := ParserRegs.reset, pending := [], responses := [], counts := [] }

end Sys2Proof.Machine
end

