-- ==== Sys2Proof/Machine/Operands.lean ====
section
/-!
DEFINITION. Operand forms: the control byte's fields with their masks, shifts and PRM contexts (30_encoding R58, R59,
40_control_byte R71), the tagged view (R80), the checksum (R66) and operand assembly (R67).
-/
namespace Sys2Proof.Machine

/-- The fields of the control byte that GET and SET select (R52, R59). -/
inductive CtrlField where
  | dir
  | prm
  | fcb
  | fcv
  | acd
  | dfc
  | fc
  deriving DecidableEq, Repr

/-- The field's mask (R59). -/
def CtrlField.mask : CtrlField → Byte
  | .dir => 0x80
  | .prm => 0x40
  | .fcb => 0x20
  | .fcv => 0x10
  | .acd => 0x20
  | .dfc => 0x10
  | .fc => 0x0F

/-- The field's shift (R59). -/
def CtrlField.shift : CtrlField → Nat
  | .dir => 7
  | .prm => 6
  | .fcb => 5
  | .fcv => 4
  | .acd => 5
  | .dfc => 4
  | .fc => 0

/-- The field's width in bits (R59). -/
abbrev CtrlField.width : CtrlField → Nat
  | .fc => 4
  | _ => 1

/-- Bit 6: the byte belongs to a primary message (R58). -/
def isPrimary (c : Byte) : Bool := c.getLsbD 6

/-- Bit 4 as Frame Count Valid (R58). -/
def fcvBit (c : Byte) : Bool := c.getLsbD 4

/-- The context in which GET answers (R59, R71). -/
def CtrlField.readable : CtrlField → Byte → Bool
  | .dir, _ => true
  | .prm, _ => true
  | .fcb, c => isPrimary c && fcvBit c
  | .fcv, c => isPrimary c
  | .acd, c => !isPrimary c
  | .dfc, c => !isPrimary c
  | .fc, _ => true

/-- The context in which SET acts (R59, R71): FCB needs PRM only, not FCV. -/
def CtrlField.writable : CtrlField → Byte → Bool
  | .dir, _ => true
  | .prm, _ => true
  | .fcb, c => isPrimary c
  | .fcv, c => isPrimary c
  | .acd, c => !isPrimary c
  | .dfc, c => !isPrimary c
  | .fc, _ => true

/-- Read a field: its bits shifted down and zero-extended to rdata's 8 bits, or none outside its context (R57, R71). -/
def getField (f : CtrlField) (c : Byte) : Option Byte :=
  if f.readable c then some ((c &&& f.mask) >>> f.shift) else none

/-- Write a field: clear its mask and OR the shifted value in, or none outside its context (R71, R72).
The value has the field's own width, so no other bit is disturbed (R53). -/
def setField (f : CtrlField) (c : Byte) (v : BitVec f.width) : Option Byte :=
  if f.writable c then some ((c &&& ~~~f.mask) ||| (v.zeroExtend 8 <<< f.shift)) else none

/-- The tagged reading of bits 5 and 4 (R80). -/
inductive TaggedView where
  | primary (fcb fcv : BitVec 1)
  | secondary (acd dfc : BitVec 1)
  deriving DecidableEq, Repr

/-- Bits 5 and 4 under the tag that bit 6 selects (R80). -/
def viewOf (c : Byte) : TaggedView :=
  if isPrimary c then .primary (c.extractLsb' 5 1) (c.extractLsb' 4 1)
  else .secondary (c.extractLsb' 5 1) (c.extractLsb' 4 1)

/-- VIEW's rdata, `zext_8({tag : b5 : b4})` with tag 1 for Primary (R57). -/
def TaggedView.rdata : TaggedView → Byte
  | .primary fcb fcv => (0b1#1 ++ fcb ++ fcv).zeroExtend 8
  | .secondary acd dfc => (0b0#1 ++ acd ++ dfc).zeroExtend 8

/-- The checksum `cs8(c, a, p)`: the exact sum of all bytes, reduced once mod 256 (R66). -/
def cs8 (c a : Byte) (p : List Byte) : Byte :=
  BitVec.ofNat 8 (c.toNat + a.toNat + (p.map BitVec.toNat).sum)

/-- The address byte ENCODE transmits, `address[7:0]` (R67). -/
def addressByte (address : BitVec 16) : Byte := address.extractLsb' 0 8

/-- The Frame address TOFRAME delivers, `zext_16(addr)` (R67). -/
def addressOf (addr : Byte) : BitVec 16 := addr.zeroExtend 16

/-- The length byte `L = 2 + len(payload)` (R67): exact for payloads of at most 253 bytes. -/
def lengthByte (payload : List Byte) : Byte := BitVec.ofNat 8 (2 + payload.length)

end Sys2Proof.Machine
end

