-- ==== Sys2Proof/Machine/Flags.lean ====
section
/-!
DEFINITION. The classification, the block's only flag: its code and the STATUS view (10_state R15, R23), how the end byte
decides it (42_frame_codec R106), and the reference causes of BadFormat (60_exceptions R120).
-/
namespace Sys2Proof.Machine

/-- The 2-bit code of a classification (R15). -/
def Classification.code : Classification → BitVec 2
  | .needMoreData => 0
  | .noError => 1
  | .badFormat => 2
  | .checkError => 3

/-- The STATUS register: CLS in bits 1:0, bits 7:2 read as zero (R23). -/
def statusReg (c : Classification) : Byte := c.code.zeroExtend 8

/-- The outcome's 3-bit code (R57). -/
def OutcomeCode.code : OutcomeCode → BitVec 3
  | .ok => 0
  | .none => 1
  | .hold => 2
  | .fault => 3
  | .refused => 4

/-- The fault code in rdata (R122). -/
def FaultCode.code : FaultCode → Byte
  | .toFrameNotReady => 0x01
  | .encodeTooLong => 0x02

/-- The refusal code in rdata (R123). -/
def RefusalCode.code : RefusalCode → Byte
  | .illegalCommand => 0x01
  | .addrWidthUnsupported => 0x02

/-- The checks FEED makes in AwaitRepeatedStart (R101): the repeated start byte, the length pair, the minimum length. -/
def repeatedStartOk (p : ParserRegs) (b : Byte) : Bool :=
  b == Config.startVar && p.len0 == p.len1 && Config.lMin ≤ p.len0.toNat

/-- The classification the end byte decides (R106): a wrong end marker before a wrong checksum (R125). -/
def endClass (p : ParserRegs) (b : Byte) : Classification :=
  if b ≠ Config.endMark then .badFormat
  else if cs8 p.ctrl p.addr p.pbuf ≠ p.csrx then .checkError
  else .noError

/-- The five causes of BadFormat, named for reference only: the block records none of them (R120). -/
inductive BadFormatCause where
  | bfStart
  | bfRestart
  | bfLenPair
  | bfLenMin
  | bfEnd
  deriving DecidableEq, Repr

/-- When a cause holds for a byte offered to the parser (R120). -/
def BadFormatCause.holds : BadFormatCause → ParserRegs → Byte → Bool
  | .bfStart, p, b => p.st == .awaitStart && b != Config.startFixed && b != Config.startVar
  | .bfRestart, p, b => p.st == .awaitRepeatedStart && b != Config.startVar
  | .bfLenPair, p, _ => p.st == .awaitRepeatedStart && p.len0 != p.len1
  | .bfLenMin, p, _ => p.st == .awaitRepeatedStart && p.len0.toNat < Config.lMin
  | .bfEnd, p, b => p.st == .awaitEnd && b != Config.endMark

end Sys2Proof.Machine
end

