-- ==== Sys2Proof/Machine/Ops.lean ====
section
/-!
DEFINITION. The named operations every meaning is written over: responses (30_encoding R57), the payload buffer's append
(20_memory R35), entering Done and leaving it (60_exceptions R126, R127), and how a command completes
(60_exceptions R122, R123).
-/
namespace Sys2Proof.Machine

/-! ### Responses (R57) -/

/-- OK with a value and no bundle. -/
def Response.okData (d : Byte) : Response :=
  { outcome := .ok, rdata := d, frameOut := none, bytesOut := none }

/-- OK with a Frame in `frame_out`, rdata 0x00. -/
def Response.okFrame (f : Frame) : Response :=
  { outcome := .ok, rdata := 0x00, frameOut := some f, bytesOut := none }

/-- OK with bytes in `bytes_out`, rdata 0x00. -/
def Response.okBytes (bs : List Byte) : Response :=
  { outcome := .ok, rdata := 0x00, frameOut := none, bytesOut := some bs }

/-- NONE: a guarded field outside its context; rdata 0x00. -/
def Response.absent : Response :=
  { outcome := .none, rdata := 0x00, frameOut := none, bytesOut := none }

/-- HOLD: FEED in Done; rdata 0x00. -/
def Response.held : Response :=
  { outcome := .hold, rdata := 0x00, frameOut := none, bytesOut := none }

/-- FAULT with its code in rdata (R122). DEDUCED (log entry 9): no bundle. -/
def Response.faulted (c : FaultCode) : Response :=
  { outcome := .fault, rdata := c.code, frameOut := none, bytesOut := none }

/-- REFUSED with its code in rdata (R123). DEDUCED (log entry 9): no bundle. -/
def Response.refused (c : RefusalCode) : Response :=
  { outcome := .refused, rdata := c.code, frameOut := none, bytesOut := none }

/-- The response of a command with an optional result (R9): OK with the value, or NONE. -/
def Response.ofOption : Option Byte → Response
  | some d => .okData d
  | none => .absent

/-- Deliver a response. Nothing else changes. -/
def State.respond (s : State) (r : Response) : State := { s with responses := r :: s.responses }

/-- What the last response delivered said, where one was. -/
def State.lastOutcome (s : State) : Option OutcomeCode := s.responses.head?.map Response.outcome

/-- Return DECODE's result, the number of bytes consumed (R69, R108). DESIGN CHOICE (log entry 6): it joins a list of State.
Nothing else changes. -/
def State.returnCount (s : State) (n : Nat) : State := { s with counts := n :: s.counts }

/-- The observation of a run (R151): the responses in the order they were delivered, and the final register state. -/
def State.observation (s : State) : List Response × ParserRegs := (s.responses.reverse, s.parser)

/-! ### The parser's registers -/

/-- `PbufAppend(b)` (R35). Its precondition is `completeParser`'s to check. -/
def ParserRegs.pbufAppend (p : ParserRegs) (b : Byte) : ParserRegs := { p with pbuf := p.pbuf ++ [b] }

/-- Entering Done (R126), the block's one event that resembles a trap: `cls` and `st` are written and nothing else.
Every FEED arm that ends a frame takes it. -/
def ParserRegs.enterDone (p : ParserRegs) (c : Classification) : ParserRegs := { p with cls := c, st := .done }

/-- Leaving Done (R127): RESET restores every register's reset value (R31, R111), from any state. -/
def ParserRegs.leaveDone (_ : ParserRegs) : ParserRegs := ParserRegs.reset

/-- A command appended to `pbuf` when it was full. A command appends at most one byte, so the append broke R35's
precondition exactly when the buffer grew to more than PAYLOAD_MAX bytes. -/
def pbufOverflowed (before after : ParserRegs) : Bool :=
  before.pbuf.length < after.pbuf.length && Config.payloadMax < after.pbuf.length

/-! ### Completing a command -/

/-- A command of an instance configured with ADDR_BYTES ≠ 1 is refused and changes no state (R123); any other command
delivers its response and changes nothing else (R41). -/
def State.answer (s : State) (r : Response) : Host.Outcome State Fault Refusal :=
  if s.addrBytes = Config.addrBytes then .next (s.respond r)
  else .next (s.respond (.refused .addrWidthUnsupported))

/-- The same for a command that leaves the parser's registers at `p`. -/
def State.completeParser (s : State) (p : ParserRegs) (r : Response) : Host.Outcome State Fault Refusal :=
  if s.addrBytes = Config.addrBytes then
    if pbufOverflowed s.parser p then .fault .pbufOverflow
    else .next ({ s with parser := p }.respond r)
  else .next (s.respond (.refused .addrWidthUnsupported))

end Sys2Proof.Machine
end

