-- ==== Sys2Proof/Machine/ControlByte.lean ====
section
/-!
DEFINITION. The control-byte bit-field multiplexer (40_control_byte R71 to R87): combinational, so each command only delivers
its response (10_state R32).
-/
namespace Sys2Proof.Machine

/-! ### Reads -/

/-- `GET.DIR c` (R73): bit 7; unguarded. -/
def execGetDir (c : Byte) (s : State) : Host.Outcome State Fault Refusal :=
  s.answer (.ofOption (getField .dir c))

/-- `GET.PRM c` (R74): bit 6; unguarded. -/
def execGetPrm (c : Byte) (s : State) : Host.Outcome State Fault Refusal :=
  s.answer (.ofOption (getField .prm c))

/-- `GET.FCB c` (R75): bit 5 when PRM = 1 and FCV = 1, NONE otherwise. -/
def execGetFcb (c : Byte) (s : State) : Host.Outcome State Fault Refusal :=
  s.answer (.ofOption (getField .fcb c))

/-- `GET.FCV c` (R76): bit 4 when PRM = 1, NONE otherwise. -/
def execGetFcv (c : Byte) (s : State) : Host.Outcome State Fault Refusal :=
  s.answer (.ofOption (getField .fcv c))

/-- `GET.ACD c` (R77): bit 5 when PRM = 0, NONE otherwise. -/
def execGetAcd (c : Byte) (s : State) : Host.Outcome State Fault Refusal :=
  s.answer (.ofOption (getField .acd c))

/-- `GET.DFC c` (R78): bit 4 when PRM = 0, NONE otherwise. -/
def execGetDfc (c : Byte) (s : State) : Host.Outcome State Fault Refusal :=
  s.answer (.ofOption (getField .dfc c))

/-- `GET.FC c` (R79): bits 3:0; unguarded, never interpreted. -/
def execGetFc (c : Byte) (s : State) : Host.Outcome State Fault Refusal :=
  s.answer (.ofOption (getField .fc c))

/-- `VIEW c` (R80): total, tagged by PRM. -/
def execView (c : Byte) (s : State) : Host.Outcome State Fault Refusal :=
  s.answer (.okData (viewOf c).rdata)

/-! ### Writes: the result is the returned byte, no register is written (R81 to R87) -/

/-- `SET.DIR c, v` (R81): unguarded. -/
def execSetDir (c : Byte) (v : BitVec 1) (s : State) : Host.Outcome State Fault Refusal :=
  s.answer (.ofOption (setField .dir c v))

/-- `SET.PRM c, v` (R82): unguarded; bits 5 and 4 are kept. -/
def execSetPrm (c : Byte) (v : BitVec 1) (s : State) : Host.Outcome State Fault Refusal :=
  s.answer (.ofOption (setField .prm c v))

/-- `SET.FCB c, v` (R83): PRM = 1, NONE otherwise. -/
def execSetFcb (c : Byte) (v : BitVec 1) (s : State) : Host.Outcome State Fault Refusal :=
  s.answer (.ofOption (setField .fcb c v))

/-- `SET.FCV c, v` (R84): PRM = 1, NONE otherwise. -/
def execSetFcv (c : Byte) (v : BitVec 1) (s : State) : Host.Outcome State Fault Refusal :=
  s.answer (.ofOption (setField .fcv c v))

/-- `SET.ACD c, v` (R85): PRM = 0, NONE otherwise. -/
def execSetAcd (c : Byte) (v : BitVec 1) (s : State) : Host.Outcome State Fault Refusal :=
  s.answer (.ofOption (setField .acd c v))

/-- `SET.DFC c, v` (R86): PRM = 0, NONE otherwise. -/
def execSetDfc (c : Byte) (v : BitVec 1) (s : State) : Host.Outcome State Fault Refusal :=
  s.answer (.ofOption (setField .dfc c v))

/-- `SET.FC c, v` (R87): unguarded. -/
def execSetFc (c : Byte) (v : BitVec 4) (s : State) : Host.Outcome State Fault Refusal :=
  s.answer (.ofOption (setField .fc c v))

end Sys2Proof.Machine
end

