-- ==== Sys2Proof/Machine/FrameEncoder.lean ====
section
/-!
DEFINITION. The frame encoder and the Frame value's accessors and setters (41_frame R90 to R94). Combinational: no register
is read or written (10_state R32).
-/
namespace Sys2Proof.Machine

/-- The wire bytes of a fixed frame (R62). -/
def fixedFrameBytes (c a : Byte) : List Byte :=
  [Config.startFixed, c, a, cs8 c a [], Config.endMark]

/-- The wire bytes of a variable frame with length byte `l` (R63). -/
def variableFrameBytes (l c a : Byte) (payload : List Byte) : List Byte :=
  [Config.startVar, l, l, Config.startVar, c, a] ++ payload ++ [cs8 c a payload, Config.endMark]

/-- A Frame's kind follows from its payload alone (R90). -/
def frameKind (f : Frame) : Kind := if f.payload = [] then .fixed else .variable

/-- R92's pseudocode: the wire bytes, or the fault for a payload over PAYLOAD_MAX bytes. An address above 0xFF is
sent as its low byte (decision D11). -/
def encodeFrame (f : Frame) : Except FaultCode (List Byte) :=
  if Config.payloadMax < f.payload.length then .error .encodeTooLong
  else if f.payload.length = 0 then .ok (fixedFrameBytes f.ctrl (addressByte f.address))
  else .ok (variableFrameBytes (lengthByte f.payload) f.ctrl (addressByte f.address) f.payload)

/-- `ENCODE f` (R92): the bytes in `bytes_out`, or FAULT ENCODE_TOO_LONG (R122). -/
def execEncode (f : Frame) (s : State) : Host.Outcome State Fault Refusal :=
  match encodeFrame f with
  | .ok bytes => s.answer (.okBytes bytes)
  | .error c => s.answer (.faulted c)

/-- `HASPAYLOAD f` (R91): the bound on the payload is not checked here. -/
def execHasPayload (f : Frame) (s : State) : Host.Outcome State Fault Refusal :=
  s.answer (.okData (if f.payload.length ≠ 0 then 0x01 else 0x00))

/-! ### Accessors and setters on a Frame value (R69, R93, R94) -/

/-- An accessor on a Frame is the control-byte read of its `ctrl` (R93). -/
def frameGet (fld : CtrlField) (f : Frame) : Option Byte := getField fld f.ctrl

/-- GET.PRM (R69). -/
def isPrimaryMessage (f : Frame) : Option Byte := frameGet .prm f
/-- GET.DIR (R69). -/
def isFromSlaveStation (f : Frame) : Option Byte := frameGet .dir f
/-- GET.FCB (R69). -/
def frameCountBit (f : Frame) : Option Byte := frameGet .fcb f
/-- GET.FCV (R69). -/
def frameCountValid (f : Frame) : Option Byte := frameGet .fcv f
/-- GET.ACD (R69). -/
def hasAccessDemand (f : Frame) : Option Byte := frameGet .acd f
/-- GET.DFC (R69). -/
def dataFlowControl (f : Frame) : Option Byte := frameGet .dfc f
/-- GET.FC (R69). -/
def functionCode (f : Frame) : Option Byte := frameGet .fc f

/-- A setter on a Frame (R94): a new Frame with the written control byte, or none where the write is none.
Its value has the field's own width: the SET word it expands to is reserved for a wider one (R53, R69). -/
def frameSet (fld : CtrlField) (f : Frame) (v : BitVec fld.width) : Option Frame :=
  (setField fld f.ctrl v).map fun c => { f with ctrl := c }

end Sys2Proof.Machine
end

