-- ==== Sys2Proof/Machine/FrameParser.lean ====
section
/-!
DEFINITION. The incremental frame parser: FEED with one arm per parse state, RESET, STATUS, TOFRAME, DECODE and the two wire
frames (42_frame_codec R96 to R111, 30_encoding R62, R63).
-/
namespace Sys2Proof.Machine

/-! ### FEED's arms -/

/-- R98: 0x10 selects the fixed path, 0x68 the variable path, anything else is BadFormat. -/
def feedAwaitStart (p : ParserRegs) (b : Byte) : ParserRegs :=
  if b = Config.startFixed then { p with kind := .fixed, st := .awaitControl }
  else if b = Config.startVar then { p with kind := .variable, st := .awaitLength0 }
  else p.enterDone .badFormat

/-- R99. -/
def feedAwaitLength0 (p : ParserRegs) (b : Byte) : ParserRegs := { p with len0 := b, st := .awaitLength1 }

/-- R100. -/
def feedAwaitLength1 (p : ParserRegs) (b : Byte) : ParserRegs := { p with len1 := b, st := .awaitRepeatedStart }

/-- R101. -/
def feedAwaitRepeatedStart (p : ParserRegs) (b : Byte) : ParserRegs :=
  if repeatedStartOk p b then { p with st := .awaitControl } else p.enterDone .badFormat

/-- R102. -/
def feedAwaitControl (p : ParserRegs) (b : Byte) : ParserRegs := { p with ctrl := b, st := .awaitAddress }

/-- R103. -/
def feedAwaitAddress (p : ParserRegs) (b : Byte) : ParserRegs :=
  match p.kind with
  | .fixed => { p with addr := b, st := .awaitChecksum }
  | .variable => { p with addr := b, st := .awaitPayload }

/-- R104: append, then compare the count with `len0 − 2`. Written as a sum, so that a length byte below 2 (which no
reachable AwaitPayload holds, R101) equals no count. -/
def feedAwaitPayload (p : ParserRegs) (b : Byte) : ParserRegs :=
  let q := p.pbufAppend b
  if q.pbuf.length + 2 = q.len0.toNat then { q with st := .awaitChecksum } else q

/-- R105. -/
def feedAwaitChecksum (p : ParserRegs) (b : Byte) : ParserRegs := { p with csrx := b, st := .awaitEnd }

/-- R106. -/
def feedAwaitEnd (p : ParserRegs) (b : Byte) : ParserRegs := p.enterDone (endClass p b)

/-- The transition function of R96: one byte offered to the parser. In Done the byte is not consumed (R107). -/
def feedByte (p : ParserRegs) (b : Byte) : ParserRegs :=
  match p.st with
  | .awaitStart => feedAwaitStart p b
  | .awaitLength0 => feedAwaitLength0 p b
  | .awaitLength1 => feedAwaitLength1 p b
  | .awaitRepeatedStart => feedAwaitRepeatedStart p b
  | .awaitControl => feedAwaitControl p b
  | .awaitAddress => feedAwaitAddress p b
  | .awaitPayload => feedAwaitPayload p b
  | .awaitChecksum => feedAwaitChecksum p b
  | .awaitEnd => feedAwaitEnd p b
  | .done => p

/-- The Frame the parser holds (R110): the parsed control byte, address and payload. -/
def ParserRegs.frame (p : ParserRegs) : Frame :=
  { ctrl := p.ctrl, address := addressOf p.addr, payload := p.pbuf }

/-! ### The commands -/

/-- `FEED b` (R97, R107): held in Done, otherwise consumed with rdata 0x01. -/
def execFeed (b : Byte) (s : State) : Host.Outcome State Fault Refusal :=
  match s.parser.st with
  | .done => s.answer .held
  | _ => s.completeParser (feedByte s.parser b) (.okData 0x01)

/-- `RESET` (R111): every register to its reset value, in every state. -/
def execReset (s : State) : Host.Outcome State Fault Refusal :=
  s.completeParser s.parser.leaveDone (.okData 0x00)

/-- `STATUS` (R109). -/
def execStatus (s : State) : Host.Outcome State Fault Refusal :=
  s.answer (.okData (statusReg s.parser.cls))

/-- `TOFRAME` (R110): the decoded Frame, or FAULT TOFRAME_NOT_READY with nothing written (R122). -/
def execToFrame (s : State) : Host.Outcome State Fault Refusal :=
  match s.parser.cls with
  | .noError => s.answer (.okFrame s.parser.frame)
  | _ => s.answer (.faulted .toFrameNotReady)

/-- DECODE's expansion (R69): one FEED per byte, each with its own response, up to the first byte the parser does not
accept (R108), a held FEED in the admitted configuration; `n` counts the bytes consumed so far and is returned in the end.
DEDUCED (log entry 17): with another ADDR_BYTES that byte is the first, whose FEED is refused. -/
def State.feedChunk : List Byte → Nat → State → Host.Outcome State Fault Refusal
  | [], n, s => .next (s.returnCount n)
  | b :: bs, n, s =>
    match execFeed b s with
    | .next t => if t.lastOutcome = some .ok then State.feedChunk bs (n + 1) t else .next (t.returnCount n)
    | .fault r => .fault r
    | .refused r => .refused r

/-- `DECODE chunk` (R69, R108). -/
def execDecode (chunk : List Byte) (s : State) : Host.Outcome State Fault Refusal :=
  State.feedChunk chunk 0 s

/-- A fixed wire frame (R62), decoded by FEED, byte by byte in wire order (R36, R96). -/
def execFrameFixed (c a cs e : Byte) (s : State) : Host.Outcome State Fault Refusal :=
  State.feedChunk [Config.startFixed, c, a, cs, e] 0 s

/-- A variable wire frame (R63), decoded by FEED, byte by byte in wire order (R36, R96). -/
def execFrameVariable (l0 l1 start2 : Byte) (body : List Byte) (s : State) : Host.Outcome State Fault Refusal :=
  State.feedChunk (Config.startVar :: l0 :: l1 :: start2 :: body) 0 s

end Sys2Proof.Machine
end

