-- ==== Sys2Proof/Machine/Dispatch.lean ====
section
/-!
DEFINITION. Which meaning each command has: one arm per constructor of Instr.
-/
namespace Sys2Proof.Machine

def exec (i : Instr) (s : State) : Host.Outcome State Fault Refusal :=
  match i with
  | .feed b => Sys2Proof.Machine.execFeed b s
  | .reset => Sys2Proof.Machine.execReset s
  | .status => Sys2Proof.Machine.execStatus s
  | .toFrame => Sys2Proof.Machine.execToFrame s
  | .getDir c => Sys2Proof.Machine.execGetDir c s
  | .getPrm c => Sys2Proof.Machine.execGetPrm c s
  | .getFcb c => Sys2Proof.Machine.execGetFcb c s
  | .getFcv c => Sys2Proof.Machine.execGetFcv c s
  | .getAcd c => Sys2Proof.Machine.execGetAcd c s
  | .getDfc c => Sys2Proof.Machine.execGetDfc c s
  | .getFc c => Sys2Proof.Machine.execGetFc c s
  | .view c => Sys2Proof.Machine.execView c s
  | .setDir c v => Sys2Proof.Machine.execSetDir c v s
  | .setPrm c v => Sys2Proof.Machine.execSetPrm c v s
  | .setFcb c v => Sys2Proof.Machine.execSetFcb c v s
  | .setFcv c v => Sys2Proof.Machine.execSetFcv c v s
  | .setAcd c v => Sys2Proof.Machine.execSetAcd c v s
  | .setDfc c v => Sys2Proof.Machine.execSetDfc c v s
  | .setFc c v => Sys2Proof.Machine.execSetFc c v s
  | .encode f => Sys2Proof.Machine.execEncode f s
  | .hasPayload f => Sys2Proof.Machine.execHasPayload f s
  | .decode chunk => Sys2Proof.Machine.execDecode chunk s
  | .frameFixed c a cs e => Sys2Proof.Machine.execFrameFixed c a cs e s
  | .frameVariable l0 l1 start2 body => Sys2Proof.Machine.execFrameVariable l0 l1 start2 body s

end Sys2Proof.Machine
end

