-- ==== Sys2Proof/Machine/Step.lean ====
section
/-!
DEFINITION. One step of one instance: it serves the oldest pending command (20_memory R40, R44, R49).
-/
namespace Sys2Proof.Machine

/-- Serve the oldest pending transaction: run the command it spells, or refuse a reserved word before any other check
(R55, R123, R125). With nothing pending the block keeps its state (R135). -/
def step (s : State) : Host.Outcome State Fault Refusal :=
  match s.pending with
  | [] => .next s
  | r :: rest =>
    match decode r with
    | .ok i => exec i { s with pending := rest }
    | .error _ => .next ({ s with pending := rest }.respond (.refused .illegalCommand))

/-- `s` with the transaction whose bits are `w` issued as the next one to be served. -/
def State.withFetchWord (s : State) (nbits w : Nat) : State :=
  { s with pending := tableRequest nbits w :: s.pending }

end Sys2Proof.Machine
end

