-- ==== Sys2Proof/Machine/Links.lean ====
section
/-!
DEFINITION. Several instances side by side, one per serial link (10_state R33, 60_exceptions R133). The number of instances is
N_LINKS, an open parameter (00_scope R6).
-/
namespace Sys2Proof.Machine

/-- The instances of a system, each with its complete state and its own command stream (R133). -/
abbrev System := List State

/-- Each instance starts in the reset state (R133). -/
def System.reset (nLinks : Nat) : System := List.replicate nLinks State.reset

/-- Step the instance of link `k` alone: instances share nothing (R33, R44). -/
def System.stepLink (y : System) (k : Fin y.length) : Host.Outcome System Fault Refusal :=
  match step (y.get k) with
  | .next t => .next (y.set k t)
  | .fault r => .fault r
  | .refused r => .refused r

end Sys2Proof.Machine
end

