-- ==== Sys2Proof/Safety.lean ====
section
/-!
DEFINITION. What claims are stated in: the parser's invariant (10_state R16, R20, R21), how a run ends (70_reset R151), runs of
steps and of FEEDs, and the multiplexer's commands named by their field.
-/
namespace Sys2Proof.Machine

/-- The parser's invariant. Its clauses, state by state:
`cls` is NeedMoreData exactly outside Done (R16); `pbuf` is empty before AwaitPayload and on the fixed path (R21);
the length states lie on the variable path (R96); once the length pair has been checked `len0 = len1 ≥ L_MIN` (R20, R101);
the fill count is below `len0 − 2` in AwaitPayload and equal to it after (R21); `pbuf` holds at most PAYLOAD_MAX bytes (R21). -/
abbrev ParserRegs.Inv (p : ParserRegs) : Prop :=
  (p.cls = .needMoreData ↔ p.st ≠ .done) ∧
  (p.kind = .fixed → p.pbuf = []) ∧
  (p.st = .awaitStart ∨ p.st = .awaitLength0 ∨ p.st = .awaitLength1 ∨ p.st = .awaitRepeatedStart ∨
    p.st = .awaitControl ∨ p.st = .awaitAddress → p.pbuf = []) ∧
  (p.st = .awaitLength0 ∨ p.st = .awaitLength1 ∨ p.st = .awaitRepeatedStart ∨ p.st = .awaitPayload →
    p.kind = .variable) ∧
  (p.kind = .variable ∧ (p.st = .awaitControl ∨ p.st = .awaitAddress ∨ p.st = .awaitPayload ∨
    p.st = .awaitChecksum ∨ p.st = .awaitEnd ∨ p.cls = .noError ∨ p.cls = .checkError) →
    p.len0 = p.len1 ∧ Config.lMin ≤ p.len0.toNat) ∧
  (p.st = .awaitPayload → p.pbuf.length + 2 < p.len0.toNat) ∧
  (p.kind = .variable ∧ (p.st = .awaitChecksum ∨ p.st = .awaitEnd ∨ p.cls = .noError ∨ p.cls = .checkError) →
    p.pbuf.length + 2 = p.len0.toNat) ∧
  p.pbuf.length ≤ Config.payloadMax

/-- A response that does not spoil a run (R151). -/
abbrev Response.good (r : Response) : Prop := r.outcome ≠ .fault ∧ r.outcome ≠ .refused

/-- No command so far returned FAULT or REFUSED (R151). -/
abbrev State.goodRun (s : State) : Prop := ∀ r ∈ s.responses, r.good

/-- The last command was a held FEED: the run waits for RESET (R151). -/
abbrev State.waitingForReset (s : State) : Prop := s.lastOutcome = some .hold

/-- The run ends in an incomplete frame (R151). -/
abbrev State.incompleteFrame (s : State) : Prop := s.parser.cls = .needMoreData

/-- The instance is in the configuration the block admits (R6). -/
abbrev State.admitted (s : State) : Prop := s.addrBytes = Config.addrBytes

/-- `s` answers the command `i` with the response `r` and changes nothing else. -/
abbrev State.answers (s : State) (i : Instr) (r : Response) : Prop := exec i s = .next (s.respond r)

/-- The number of bytes the last DECODE consumed (R108). -/
abbrev State.lastCount (s : State) : Option Nat := s.counts.head?

/-- The bytes a chunk command feeds (R69, R62, R63), and none for the commands of R51. -/
def fedBytes : Instr → Option (List Byte)
  | .decode chunk => some chunk
  | .frameFixed c a cs e => some [Config.startFixed, c, a, cs, e]
  | .frameVariable l0 l1 start2 body => some (Config.startVar :: l0 :: l1 :: start2 :: body)
  | _ => none

/-- `s` answers the command `i` with outcome FAULT and this code (R57, R122) and changes nothing else. -/
abbrev State.faultsWith (s : State) (i : Instr) (code : Byte) : Prop :=
  ∃ r, s.answers i r ∧ r.outcome = .fault ∧ r.rdata = code

/-- `t` is `s` with a response of outcome REFUSED and this code (R57, R123) delivered, and nothing else changed. -/
abbrev State.refusedWith (s t : State) (code : Byte) : Prop :=
  ∃ r, t = s.respond r ∧ r.outcome = .refused ∧ r.rdata = code

/-- The state after an accepted FEED that leaves the registers at `p`: response OK, rdata 0x01 (R57, R97). -/
def State.afterFeed (s : State) (p : ParserRegs) : State :=
  { s with parser := p, responses := Response.okData 0x01 :: s.responses }

/-- `k` steps of one instance, stopping where the machine stops. -/
def State.runSteps : Nat → State → Host.Outcome State Fault Refusal
  | 0, s => .next s
  | k + 1, s =>
    match step s with
    | .next t => State.runSteps k t
    | .fault r => .fault r
    | .refused r => .refused r

/-- The FEED commands DECODE expands to (R69), run one after the other. -/
def State.runFeeds : List Byte → State → Host.Outcome State Fault Refusal
  | [], s => .next s
  | b :: bs, s =>
    match exec (.feed b) s with
    | .next t => State.runFeeds bs t
    | .fault r => .fault r
    | .refused r => .refused r

/-- GET of a field (R52). -/
def getInstr : CtrlField → Byte → Instr
  | .dir, c => .getDir c
  | .prm, c => .getPrm c
  | .fcb, c => .getFcb c
  | .fcv, c => .getFcv c
  | .acd, c => .getAcd c
  | .dfc, c => .getDfc c
  | .fc, c => .getFc c

/-- SET of a field to a value of the field's width (R52, R53). -/
def setInstr : (f : CtrlField) → Byte → BitVec f.width → Instr
  | .dir, c, v => .setDir c v
  | .prm, c, v => .setPrm c v
  | .fcb, c, v => .setFcb c v
  | .fcv, c, v => .setFcv c v
  | .acd, c, v => .setAcd c v
  | .dfc, c, v => .setDfc c v
  | .fc, c, v => .setFc c v

/-- The commands that may write the parser's registers (R41): FEED, RESET, DECODE and the wire frames. -/
def writesParser : Instr → Bool
  | .feed _ => true
  | .reset => true
  | .decode _ => true
  | .frameFixed _ _ _ _ => true
  | .frameVariable _ _ _ _ => true
  | _ => false

end Sys2Proof.Machine
end

