-- ==== Sys2Proof/Certificates/Slice0/Obligations.lean ====
section
/-!
DEFINITION. The statements for the provers, from the spec's numbered rules. `s.admitted` says the instance is configured with
ADDR_BYTES = 1; `s.parser.Inv` is the parser's invariant (Safety.lean). Neither shuts out a command or an operand.
Where a rule rests on one of the spec's own decisions (92_eei_decisions.md), the docstring names it.
-/

open Sys2Proof Sys2Proof.Machine

/-! ### The command port and the whole machine -/

/-- A step serves the oldest pending transaction: the command it decodes to, or REFUSED ILLEGAL_COMMAND for a reserved word;
with nothing pending the state is kept. The next word placed by `withFetchWord` is the one served. (The queue of pending
transactions is the model's, log entries 2, 3 and 7; that FAULT and REFUSED come with no bundle is log entry 9.) -/
def Obligations.StepServesTheDecodedCommand : Prop :=
  ∀ s : State,
    (s.pending = [] → step s = .next s) ∧
    (∀ r rest i, s.pending = r :: rest → decode r = .ok i → step s = exec i { s with pending := rest }) ∧
    (∀ r rest e, s.pending = r :: rest → decode r = .error e →
      step s = .next ({ s with pending := rest }.respond (.refused .illegalCommand))) ∧
    (∀ nbits w i, decodeTableWord nbits w = some i → step (s.withFetchWord nbits w) = exec i s)

/-- Words and wire bytes written out from the spec's encodings decode to the commands they spell. (A word taken alone comes with
an all-zero `frame_in`, and a wire frame is one transaction: log entry 7.) -/
def Obligations.WrittenOutWordsDecode : Prop :=
  decodeTableWord 24 0x100068 = some (.feed 0x68) ∧
  decodeTableWord 24 0x300000 = some .status ∧
  decodeTableWord 24 0x520053 = some (.getFcb 0x53) ∧
  decodeTableWord 24 0x570053 = some (.view 0x53) ∧
  decodeTableWord 24 0x62015A = some (.setFcb 0x5A 1) ∧
  decodeTableWord 24 0x660A53 = some (.setFc 0x53 0xA) ∧
  decodeTableWord 24 0x700000 = some (.encode Frame.zero) ∧
  decodeTableWord 40 0x165B015A10 = some (.frameFixed 0x5A 0x01 0x5B 0x16) ∧
  decodeTableWord 24 0x670053 = none

/-- Decoding the encoding of a well-formed command gives it back, at every operand value. (Bundles and wire frames are
transactions of their own kind: log entry 7.) -/
def Obligations.DecodeOfEncodeIsTheCommand : Prop :=
  ∀ i : Instr, i.wellFormed = true → decode (encode i) = .ok i

/-- R55: a word is refused exactly when one of the rule's conditions holds, the refusal changes no state, and every byte is a
legal FEED operand, classified and never refused. The fields are read off the word as a number (decision D23). -/
def Obligations.ReservedWordsAreExactlyThoseRefused : Prop :=
  (∀ (w : CmdWord) (f : Frame),
    let op := w.toNat / 2 ^ 20
    let sel := w.toNat / 2 ^ 16 % 16
    let val := w.toNat / 2 ^ 8 % 256
    let data := w.toNat % 256
    ((∃ e, decode (.command w f) = .error e) ↔
      (op = 0 ∨ 9 ≤ op) ∨ (op = 5 ∧ 8 ≤ sel) ∨ (op = 6 ∧ 7 ≤ sel) ∨
      (op ≠ 5 ∧ op ≠ 6 ∧ sel ≠ 0) ∨ (op ≠ 6 ∧ val ≠ 0) ∨
      (op = 6 ∧ sel ≤ 5 ∧ 2 ≤ val) ∨ (op = 6 ∧ sel = 6 ∧ 16 ≤ val) ∨
      (op ≠ 1 ∧ op ≠ 5 ∧ op ≠ 6 ∧ data ≠ 0))) ∧
  (∀ (s : State) (r : Request) (rest : List Request) (e : DecodeError), s.pending = r :: rest → decode r = .error e →
    ∃ t, step s = .next t ∧ State.refusedWith { s with pending := rest } t 0x01) ∧
  (∀ (b : Byte) (f : Frame), decode (.command (cmdWord 0x1 0x0 0 b) f) = .ok (.feed b)) ∧
  (∀ (b : Byte) (s t : State), s.admitted → exec (.feed b) s = .next t →
    t.responses = Response.okData 0x01 :: s.responses ∨ t.responses = Response.held :: s.responses)

/-- Power-on and RESET leave every register at the value the spec gives. (The zeros of the byte registers are the spec's own
reading of "clears", R31 and decision D13; nothing observes them, see ByteRegistersAtResetAreUnobservable.) -/
def Obligations.PowerOnIsTheResetState : Prop :=
  State.reset.parser.st = .awaitStart ∧ State.reset.parser.cls = .needMoreData ∧ State.reset.parser.pbuf = [] ∧
  State.reset.parser.kind = .fixed ∧ State.reset.parser.ctrl = 0x00 ∧ State.reset.parser.addr = 0x00 ∧
  State.reset.parser.len0 = 0x00 ∧ State.reset.parser.len1 = 0x00 ∧ State.reset.parser.csrx = 0x00 ∧
  ∀ s : State, s.admitted → exec .reset s = .next { s with
    parser := State.reset.parser, responses := Response.okData 0x00 :: s.responses }

/-- The parser's invariant holds at power-on. -/
def Obligations.ParserInvariantHoldsAtReset : Prop :=
  State.reset.parser.Inv

/-- Every step from a state that meets the parser's invariant gives one that meets it. -/
def Obligations.StepKeepsTheParserInvariant : Prop :=
  ∀ s t : State, s.parser.Inv → step s = .next t → t.parser.Inv

/-- From a state that meets the invariant every step completes: neither FEED nor any other command stops the machine. -/
def Obligations.StepCompletesFromTheInvariant : Prop :=
  ∀ s : State, s.parser.Inv → ∃ t, step s = .next t

/-- The MODEL'S stop (log entry 8): a FEED whose append finds the buffer full, R35's precondition broken, stops the machine.
No state that meets the invariant is such a state. -/
def Obligations.AppendToAFullBufferStops : Prop :=
  (∀ (b : Byte) (s : State), s.admitted → s.parser.st = .awaitPayload → Config.payloadMax ≤ s.parser.pbuf.length →
    exec (.feed b) s = .fault .pbufOverflow) ∧
  (∀ p : ParserRegs, p.Inv → p.st = .awaitPayload → p.pbuf.length < Config.payloadMax)

/-- R16: `cls` is written only on entry to Done, with a terminal value, and by RESET together with `st`. The second clause says it
of every command: one that leaves another `cls` is RESET or has taken the parser into Done. -/
def Obligations.ClassificationChangesOnlyAtDoneAndReset : Prop :=
  (∀ s t : State, s.parser.Inv → step s = .next t → (t.parser.cls = .needMoreData ↔ t.parser.st ≠ .done)) ∧
  (∀ (i : Instr) (s t : State), s.parser.Inv → exec i s = .next t → t.parser.cls ≠ s.parser.cls →
    i = .reset ∨ (s.parser.st ≠ .done ∧ t.parser.st = .done)) ∧
  (∀ (b : Byte) (s t : State), s.admitted → exec (.feed b) s = .next t →
    (s.parser.st = .done → t.parser.cls = s.parser.cls) ∧
    (s.parser.st ≠ .done → t.parser.st = .done →
      t.parser.cls = .noError ∨ t.parser.cls = .badFormat ∨ t.parser.cls = .checkError) ∧
    (t.parser.st ≠ .done → t.parser.cls = s.parser.cls)) ∧
  (∀ s t : State, s.admitted → exec .reset s = .next t → t.parser.st = .awaitStart ∧ t.parser.cls = .needMoreData)

/-- R122: a command answers FAULT exactly in the rule's two cases, with the rule's code, and then writes no register and no
later state of the run is a good one (decisions D9 and D10). -/
def Obligations.FaultResponsesAreExactlyTheTwoCauses : Prop :=
  ∀ (i : Instr) (s t : State), s.admitted → exec i s = .next t → ∃ rs, t.responses = rs ++ s.responses ∧
    ((∃ r, r ∈ rs ∧ r.outcome = .fault) ↔
      (i = .toFrame ∧ s.parser.cls ≠ .noError) ∨ (∃ f, i = .encode f ∧ 253 < f.payload.length)) ∧
    (i = .toFrame ∧ s.parser.cls ≠ .noError → s.faultsWith i 0x01) ∧
    (∀ f, i = .encode f ∧ 253 < f.payload.length → s.faultsWith i 0x02) ∧
    (∀ r, r ∈ rs → r.outcome = .fault →
      t.parser = s.parser ∧ (r.rdata = 0x01 ↔ i = .toFrame) ∧ (r.rdata = 0x02 ↔ i ≠ .toFrame) ∧
      ∀ n u, t.runSteps n = .next u → ¬ u.goodRun)

/-- R123: an instance configured with another ADDR_BYTES refuses every command, the FEEDs of a chunk too, and every instance a
reserved word; no register, no configuration and nothing pending changes (decisions D12 and D23). -/
def Obligations.UnsupportedAddressWidthRefusesEveryCommand : Prop :=
  (∀ (i : Instr) (s : State), s.addrBytes ≠ 1 → fedBytes i = none → ∃ t, exec i s = .next t ∧ s.refusedWith t 0x02) ∧
  (∀ (i : Instr) (s : State), s.addrBytes ≠ 1 → ∃ t rs, exec i s = .next t ∧ t.responses = rs ++ s.responses ∧
    (∀ r, r ∈ rs → r.outcome = .refused ∧ r.rdata = 0x02) ∧ (rs = [] → fedBytes i = some []) ∧
    t.parser = s.parser ∧ t.addrBytes = s.addrBytes ∧ t.pending = s.pending) ∧
  (∀ (w : CmdWord) (f : Frame) (s : State) (rest : List Request), s.pending = .command w f :: rest →
    (∃ e, decodeCommand w f = .error e) →
    ∃ t, step s = .next t ∧ State.refusedWith { s with pending := rest } t 0x01)

/-- A command gives exactly one response, leaves the responses already given, the configuration and the commands still
pending as they are; so a Frame already returned is not changed by later commands. A pseudo-command that returns the count `n`
has given one response for each FEED it issued: the `n` consumed bytes' and, where a byte was left, that byte's. (The two queues
and the list of counts are the model's, log entries 3, 4 and 6; that a refused FEED ends a chunk is log entry 17.) -/
def Obligations.EveryCommandGivesOneResponse : Prop :=
  (∀ (i : Instr) (s t : State), exec i s = .next t →
    t.addrBytes = s.addrBytes ∧ t.pending = s.pending ∧
    (fedBytes i = none → t.counts = s.counts ∧ ∃ r, t.responses = r :: s.responses) ∧
    (∀ bs, fedBytes i = some bs → ∃ n rs, t.counts = n :: s.counts ∧ t.responses = rs ++ s.responses ∧
      n ≤ bs.length ∧ rs.length = min (n + 1) bs.length ∧ (¬ s.admitted → n = 0))) ∧
  (∀ (n : Nat) (s t : State), s.runSteps n = .next t →
    t.addrBytes = s.addrBytes ∧ (∃ k, t.pending = s.pending.drop k) ∧ (∃ ns, t.counts = ns ++ s.counts) ∧
    ∃ rs, t.responses = rs ++ s.responses)

/-- The response format: the outcome codes; NONE and HOLD carry rdata 0x00; a Frame comes with an OK TOFRAME only, bytes with an OK
ENCODE only, both with rdata 0x00; so for the one response of a command and for each of a pseudo-command's. (That FAULT and
REFUSED carry no bundle is log entry 9.) -/
def Obligations.ResponseFormat : Prop :=
  (OutcomeCode.ok.code = 0 ∧ OutcomeCode.none.code = 1 ∧ OutcomeCode.hold.code = 2 ∧ OutcomeCode.fault.code = 3 ∧
    OutcomeCode.refused.code = 4) ∧
  (∀ (i : Instr) (s t : State), s.admitted → exec i s = .next t → ∃ rs, t.responses = rs ++ s.responses ∧
    (fedBytes i = none → rs.length = 1) ∧
    ∀ r, r ∈ rs →
      (r.outcome = .none ∨ r.outcome = .hold → r.rdata = 0x00) ∧ r.outcome ≠ .refused ∧
      (r.frameOut.isSome ↔ i = .toFrame ∧ r.outcome = .ok) ∧
      (r.bytesOut.isSome ↔ (∃ f, i = .encode f) ∧ r.outcome = .ok) ∧
      (r.frameOut.isSome ∨ r.bytesOut.isSome → r.rdata = 0x00) ∧
      ((fedBytes i).isSome → r = Response.okData 0x01 ∨ r = Response.held))

/-- R151: the observation of a run is its responses in order and its final registers, and a command appends its own responses to
it; a command keeps a run good exactly when it answers neither FAULT nor REFUSED; a held FEED, a chunk's last too, keeps it good and
leaves it waiting for RESET; a final `cls` of NeedMoreData is an incomplete frame, with `st` short of Done. The run of no
commands is good. (The list of responses is the model's, log entry 4.) -/
def Obligations.RunEndsByItsResponses : Prop :=
  State.reset.goodRun ∧ State.reset.observation = ([], State.reset.parser) ∧
  (∀ (i : Instr) (s t : State), exec i s = .next t → ∃ rs, t.responses = rs ++ s.responses ∧
    t.observation = (s.observation.1 ++ rs.reverse, t.parser) ∧
    (t.goodRun ↔ s.goodRun ∧ ∀ r, r ∈ rs → r.outcome ≠ .fault ∧ r.outcome ≠ .refused)) ∧
  (∀ (b : Byte) (s t : State), s.admitted → s.parser.st = .done → exec (.feed b) s = .next t →
    t.waitingForReset ∧ (t.goodRun ↔ s.goodRun)) ∧
  (∀ (i : Instr) (bs : List Byte) (n : Nat) (s t : State), s.admitted → fedBytes i = some bs → exec i s = .next t →
    t.lastCount = some n → n < bs.length → t.waitingForReset ∧ (t.goodRun ↔ s.goodRun)) ∧
  (∀ s t : State, s.parser.Inv → step s = .next t → (t.incompleteFrame ↔ t.parser.st ≠ .done))

/-- R41: STATUS, TOFRAME, GET, VIEW, SET, ENCODE and HASPAYLOAD change no register and answer the same again; an accepted FEED
changes the registers, also when it is repeated, and so does a DECODE that consumes a byte; a held FEED changes none; a second
RESET changes nothing more (TOFRAME: decision D16, log entry 12). -/
def Obligations.SideEffectsByCommand : Prop :=
  (∀ (i : Instr) (s t : State), writesParser i = false → exec i s = .next t →
    t.parser = s.parser ∧ ∃ r, t.responses = r :: s.responses ∧ exec i t = .next (t.respond r)) ∧
  (∀ (b : Byte) (s t : State), s.admitted → exec (.feed b) s = .next t →
    (t.parser = s.parser ↔ s.parser.st = .done)) ∧
  (∀ (b : Byte) (bs : List Byte) (s t : State), s.admitted → exec (.decode (b :: bs)) s = .next t →
    (t.parser = s.parser ↔ s.parser.st = .done)) ∧
  (∀ s t u : State, exec .reset s = .next t → exec .reset t = .next u → u.parser = t.parser)

/-- The byte registers and `kind` of the reset state cannot be told by any response: two instances in AwaitStart with an empty
buffer that differ only in them give the same responses and the same counts to the same command stream, however long. -/
def Obligations.ByteRegistersAtResetAreUnobservable : Prop :=
  ∀ (n : Nat) (s₁ s₂ : State), s₁.addrBytes = s₂.addrBytes → s₁.pending = s₂.pending → s₁.responses = s₂.responses →
    s₁.counts = s₂.counts → s₁.parser.st = .awaitStart → s₂.parser.st = .awaitStart →
    s₁.parser.cls = .needMoreData → s₂.parser.cls = .needMoreData → s₁.parser.pbuf = [] → s₂.parser.pbuf = [] →
    ∃ t₁ t₂, s₁.runSteps n = .next t₁ ∧ s₂.runSteps n = .next t₂ ∧ t₁.responses = t₂.responses ∧
      t₁.counts = t₂.counts

/-- Instances do not interact: stepping one link is that instance's own step and leaves every other link as it was; each
instance starts in the reset state. -/
def Obligations.LinksDoNotInteract : Prop :=
  (∀ (n k : Nat), k < n → (System.reset n)[k]? = some State.reset) ∧
  (∀ (y y' : System) (k : Fin y.length), y.stepLink k = .next y' →
    (∃ t, step (y.get k) = .next t ∧ y'[k.val]? = some t) ∧ ∀ j, j ≠ k.val → y'[j]? = y[j]?)

/-! ### FEED -/

/-- R97: the word, the held and the consumed FEED, and the words refused. The arm that runs is the one `st` selects; the premise on
the fill in AwaitPayload is the append's precondition (R35). -/
def Obligations.FeedIsHeldOrConsumed : Prop :=
  (∀ (b : Byte) (f : Frame), decodeCommand (0x100000 + b.zeroExtend 24) f = .ok (.feed b)) ∧
  (∀ (sel : BitVec 4) (val b : Byte) (f : Frame), sel ≠ 0 ∨ val ≠ 0 → ∃ e, decodeCommand (cmdWord 0x1 sel val b) f = .error e) ∧
  (∀ (b : Byte) (s : State), s.admitted →
    (s.parser.st = .done → exec (.feed b) s = .next { s with responses := Response.held :: s.responses }) ∧
    (s.parser.st ≠ .done → (s.parser.st = .awaitPayload → s.parser.pbuf.length < 253) →
      exec (.feed b) s = .next (s.afterFeed (match s.parser.st with
        | .awaitStart => feedAwaitStart s.parser b
        | .awaitLength0 => feedAwaitLength0 s.parser b
        | .awaitLength1 => feedAwaitLength1 s.parser b
        | .awaitRepeatedStart => feedAwaitRepeatedStart s.parser b
        | .awaitControl => feedAwaitControl s.parser b
        | .awaitAddress => feedAwaitAddress s.parser b
        | .awaitPayload => feedAwaitPayload s.parser b
        | .awaitChecksum => feedAwaitChecksum s.parser b
        | .awaitEnd => feedAwaitEnd s.parser b
        | .done => s.parser))))

/-- R96: the complete transition table, every row, from every state that meets the invariant (decisions D4 and D5). -/
def Obligations.FeedFollowsTheTransitionTable : Prop :=
  ∀ (b : Byte) (s : State), s.admitted → s.parser.Inv →
    (s.parser.st = .done → exec (.feed b) s = .next (s.respond .held)) ∧
    (s.parser.st ≠ .done → exec (.feed b) s = .next (s.afterFeed (
      match s.parser.st with
      | .awaitStart =>
        if b = 0x10 then { s.parser with kind := .fixed, st := .awaitControl }
        else if b = 0x68 then { s.parser with kind := .variable, st := .awaitLength0 }
        else { s.parser with cls := .badFormat, st := .done }
      | .awaitLength0 => { s.parser with len0 := b, st := .awaitLength1 }
      | .awaitLength1 => { s.parser with len1 := b, st := .awaitRepeatedStart }
      | .awaitRepeatedStart =>
        if b = 0x68 ∧ s.parser.len0 = s.parser.len1 ∧ 3 ≤ s.parser.len0.toNat then { s.parser with st := .awaitControl }
        else { s.parser with cls := .badFormat, st := .done }
      | .awaitControl => { s.parser with ctrl := b, st := .awaitAddress }
      | .awaitAddress =>
        { s.parser with addr := b, st := if s.parser.kind = .fixed then .awaitChecksum else .awaitPayload }
      | .awaitPayload =>
        if s.parser.pbuf.length + 1 < s.parser.len0.toNat - 2 then { s.parser with pbuf := s.parser.pbuf ++ [b] }
        else { s.parser with pbuf := s.parser.pbuf ++ [b], st := .awaitChecksum }
      | .awaitChecksum => { s.parser with csrx := b, st := .awaitEnd }
      | .awaitEnd =>
        if b ≠ 0x16 then { s.parser with cls := .badFormat, st := .done }
        else if cs8 s.parser.ctrl s.parser.addr s.parser.pbuf ≠ s.parser.csrx then
          { s.parser with cls := .checkError, st := .done }
        else { s.parser with cls := .noError, st := .done }
      | .done => s.parser))) ∧
    (s.parser.st = .awaitPayload → s.parser.pbuf.length + 1 ≤ s.parser.len0.toNat - 2)

/-- R98: FEED in AwaitStart. -/
def Obligations.FeedInAwaitStart : Prop :=
  ∀ (b : Byte) (s : State), s.admitted → s.parser.st = .awaitStart →
    exec (.feed b) s = .next { s with
      parser :=
        if b = 0x10 then { s.parser with kind := .fixed, st := .awaitControl }
        else if b = 0x68 then { s.parser with kind := .variable, st := .awaitLength0 }
        else { s.parser with cls := .badFormat, st := .done }
      responses := Response.okData 0x01 :: s.responses }

/-- R99, R100, R102 and R105: the states that store the byte they are offered, whatever it is, and advance. -/
def Obligations.FeedStoresTheByte : Prop :=
  ∀ (b : Byte) (s : State), s.admitted →
    (s.parser.st = .awaitLength0 → exec (.feed b) s =
      .next (s.afterFeed { s.parser with len0 := b, st := .awaitLength1 })) ∧
    (s.parser.st = .awaitLength1 → exec (.feed b) s =
      .next (s.afterFeed { s.parser with len1 := b, st := .awaitRepeatedStart })) ∧
    (s.parser.st = .awaitControl → exec (.feed b) s =
      .next (s.afterFeed { s.parser with ctrl := b, st := .awaitAddress })) ∧
    (s.parser.st = .awaitChecksum → exec (.feed b) s =
      .next (s.afterFeed { s.parser with csrx := b, st := .awaitEnd }))

/-- R101: FEED in AwaitRepeatedStart checks the start byte, the length pair and the minimum length (decision D4). -/
def Obligations.FeedInAwaitRepeatedStart : Prop :=
  ∀ (b : Byte) (s : State), s.admitted → s.parser.st = .awaitRepeatedStart →
    (b = 0x68 ∧ s.parser.len0 = s.parser.len1 ∧ 3 ≤ s.parser.len0.toNat → exec (.feed b) s =
      .next (s.afterFeed { s.parser with st := .awaitControl })) ∧
    (b ≠ 0x68 ∨ s.parser.len0 ≠ s.parser.len1 ∨ s.parser.len0.toNat < 3 → exec (.feed b) s =
      .next (s.afterFeed { s.parser with cls := .badFormat, st := .done }))

/-- R103: FEED in AwaitAddress stores the address byte and takes the path `kind` chose. On the variable path the buffer is
empty and the count is at least 1. -/
def Obligations.FeedInAwaitAddress : Prop :=
  ∀ (b : Byte) (s : State), s.admitted → s.parser.st = .awaitAddress →
    (s.parser.kind = .fixed → exec (.feed b) s =
      .next (s.afterFeed { s.parser with addr := b, st := .awaitChecksum })) ∧
    (s.parser.kind = .variable → exec (.feed b) s =
      .next (s.afterFeed { s.parser with addr := b, st := .awaitPayload })) ∧
    (s.parser.Inv → s.parser.kind = .variable → s.parser.pbuf = [] ∧ 1 ≤ (s.parser.len0.toNat : Int) - 2)

/-- R104: FEED in AwaitPayload appends the byte and leaves when the count reaches `len0 − 2`; the buffer never holds more
than 253 bytes. The premise on the fill is the append's precondition (R35). -/
def Obligations.FeedInAwaitPayload : Prop :=
  ∀ (b : Byte) (s : State), s.admitted → s.parser.st = .awaitPayload →
    (s.parser.pbuf.length < 253 → exec (.feed b) s = .next (s.afterFeed { s.parser with
      pbuf := s.parser.pbuf ++ [b]
      st := if ((s.parser.pbuf.length + 1 : Nat) : Int) = (s.parser.len0.toNat : Int) - 2
        then .awaitChecksum else .awaitPayload })) ∧
    (s.parser.Inv → s.parser.pbuf.length < 253)

/-- R106: FEED in AwaitEnd decides the classification; a wrong end byte wins over a wrong checksum. The sum is written out as
the rule gives it. -/
def Obligations.FeedInAwaitEnd : Prop :=
  ∀ (b : Byte) (s : State), s.admitted → s.parser.st = .awaitEnd →
    let sum := (s.parser.ctrl.toNat + s.parser.addr.toNat + (s.parser.pbuf.map BitVec.toNat).sum) % 256
    (b ≠ 0x16 → exec (.feed b) s = .next (s.afterFeed { s.parser with cls := .badFormat, st := .done })) ∧
    (b = 0x16 → sum ≠ s.parser.csrx.toNat → exec (.feed b) s =
      .next (s.afterFeed { s.parser with cls := .checkError, st := .done })) ∧
    (b = 0x16 → sum = s.parser.csrx.toNat → exec (.feed b) s =
      .next (s.afterFeed { s.parser with cls := .noError, st := .done }))

/-- R107: FEED in Done is held and every register keeps its value (decision D5). -/
def Obligations.FeedInDoneIsHeld : Prop :=
  ∀ (b : Byte) (s : State), s.admitted → s.parser.st = .done →
    exec (.feed b) s = .next { s with responses :=
      { outcome := .hold, rdata := 0x00, frameOut := none, bytesOut := none } :: s.responses }

/-- R124: HOLD is the response of FEED in Done and of nothing else, also where the FEED is one of a chunk's; the byte is not
consumed; RESET lifts the hold and no other command does (decision D5). -/
def Obligations.TheOneHold : Prop :=
  (∀ (i : Instr) (s t : State), s.admitted → exec i s = .next t → ∃ rs, t.responses = rs ++ s.responses ∧
    ((∃ r, r ∈ rs ∧ r.outcome = .hold) ↔
      (s.parser.st = .done ∧ ∃ b, i = .feed b) ∨
      (t.parser.st = .done ∧ ∃ bs n, fedBytes i = some bs ∧ t.lastCount = some n ∧ n < bs.length))) ∧
  (∀ (b : Byte) (s : State), s.admitted → s.parser.st = .done → exec (.feed b) s = .next (s.respond .held)) ∧
  (∀ (i : Instr) (b : Byte) (s t : State), s.admitted → s.parser.st = .done → exec i s = .next t →
    (i = .reset → ∃ u, exec (.feed b) t = .next u ∧ u.responses = Response.okData 0x01 :: t.responses) ∧
    (i ≠ .reset → exec (.feed b) t = .next (t.respond .held)))

/-- R125: a wrong end byte is BadFormat whatever the checksum; any combination of the three failures in AwaitRepeatedStart gives
one result; TOFRAME faults by `cls` alone, ENCODE by the payload's length alone; a reserved word is refused as such in every
state and configuration. -/
def Obligations.PriorityOfConditions : Prop :=
  (∀ (b : Byte) (s t : State), s.admitted → s.parser.st = .awaitEnd → exec (.feed b) s = .next t →
    (t.parser.cls = .badFormat ↔ b ≠ 0x16) ∧
    (t.parser.cls = .checkError ↔ b = 0x16 ∧ cs8 s.parser.ctrl s.parser.addr s.parser.pbuf ≠ s.parser.csrx)) ∧
  (∀ (b b' : Byte) (s t t' : State), s.admitted → s.parser.st = .awaitRepeatedStart →
    s.parser.len0 ≠ s.parser.len1 ∨ s.parser.len0.toNat < 3 →
    exec (.feed b) s = .next t → exec (.feed b') s = .next t' → t = t' ∧ t.parser.cls = .badFormat) ∧
  (∀ s : State, s.admitted → ((∃ c, s.faultsWith .toFrame c) ↔ s.parser.cls ≠ .noError)) ∧
  (∀ (f : Frame) (s : State), s.admitted → ((∃ c, s.faultsWith (.encode f) c) ↔ 253 < f.payload.length)) ∧
  (∀ (w : CmdWord) (f : Frame) (e : DecodeError) (s : State) (rest : List Request), decodeCommand w f = .error e →
    s.pending = .command w f :: rest → ∃ t, step s = .next t ∧ State.refusedWith { s with pending := rest } t 0x01)

/-- A FEED gives BadFormat exactly for the five causes, and CheckError exactly for the end byte with a wrong checksum. -/
def Obligations.FeedClassifiesByItsCauses : Prop :=
  ∀ (b : Byte) (s t : State), s.admitted → s.parser.Inv → s.parser.st ≠ .done → exec (.feed b) s = .next t →
    (t.parser.cls = .badFormat ↔
      (s.parser.st = .awaitStart ∧ b ≠ 0x10 ∧ b ≠ 0x68) ∨
      (s.parser.st = .awaitRepeatedStart ∧ (b ≠ 0x68 ∨ s.parser.len0 ≠ s.parser.len1 ∨ s.parser.len0.toNat < 3)) ∨
      (s.parser.st = .awaitEnd ∧ b ≠ 0x16)) ∧
    (t.parser.cls = .badFormat ↔ ∃ c : BadFormatCause, c.holds s.parser b = true) ∧
    (t.parser.cls = .checkError ↔ s.parser.st = .awaitEnd ∧ b = 0x16 ∧
      cs8 s.parser.ctrl s.parser.addr s.parser.pbuf ≠ s.parser.csrx)

/-- R126: entering Done happens on the consumption of one byte and writes `cls` and `st` and nothing else. -/
def Obligations.EnteringDoneWritesOnlyClsAndSt : Prop :=
  (∀ (b : Byte) (s t : State), s.parser.st ≠ .done → exec (.feed b) s = .next t → t.parser.st = .done →
    t.parser = { s.parser with cls := t.parser.cls, st := .done } ∧ t.responses = Response.okData 0x01 :: s.responses ∧
    t.pending = s.pending ∧ t.addrBytes = s.addrBytes ∧ t.counts = s.counts) ∧
  (∀ (b : Byte) (s t : State), s.parser.st ≠ .done → exec (.feed b) s = .next t → t.parser.cls = .noError →
    t.parser.st = .done → exec .toFrame t = .next (t.respond (.okFrame
      { ctrl := s.parser.ctrl, address := s.parser.addr.zeroExtend 16, payload := s.parser.pbuf })))

/-- R127: only RESET leaves Done, and it restores the reset state; every other command keeps every register of a parser in
Done. -/
def Obligations.OnlyResetLeavesDone : Prop :=
  (∀ (i : Instr) (s t : State), s.parser.st = .done → exec i s = .next t → i ≠ .reset → t.parser = s.parser) ∧
  (∀ s : State, s.admitted → exec .reset s = .next { s with
    parser := ParserRegs.reset, responses := Response.okData 0x00 :: s.responses })

/-- R116: in the states that hold a field, every byte value, the markers too, is stored and neither starts nor ends a frame: the
next state is the field's own successor and nothing else changes; the rule's example. -/
def Obligations.NoEscapingOfMarkerBytes : Prop :=
  (∀ (b : Byte) (s t : State), s.admitted → exec (.feed b) s = .next t →
    (s.parser.st = .awaitLength0 → t.parser = { s.parser with len0 := b, st := .awaitLength1 }) ∧
    (s.parser.st = .awaitLength1 → t.parser = { s.parser with len1 := b, st := .awaitRepeatedStart }) ∧
    (s.parser.st = .awaitControl → t.parser = { s.parser with ctrl := b, st := .awaitAddress }) ∧
    (s.parser.st = .awaitAddress → t.parser =
      { s.parser with addr := b, st := if s.parser.kind = .fixed then .awaitChecksum else .awaitPayload }) ∧
    (s.parser.st = .awaitPayload → t.parser = { s.parser with
      pbuf := s.parser.pbuf ++ [b]
      st := if ((s.parser.pbuf.length + 1 : Nat) : Int) = (s.parser.len0.toNat : Int) - 2
        then .awaitChecksum else .awaitPayload }) ∧
    (s.parser.st = .awaitChecksum → t.parser = { s.parser with csrx := b, st := .awaitEnd })) ∧
  (∀ s : State, s.admitted → s.parser = ParserRegs.reset →
    ∃ t, exec (.decode [0x68, 0x03, 0x03, 0x68, 0x08, 0x01, 0x16, 0x1F, 0x16]) s = .next t ∧
      t.parser.cls = .noError ∧ t.parser.pbuf = [0x16])

/-! ### DECODE, STATUS, TOFRAME, RESET -/

/-- R108: DECODE issues the FEEDs of its bytes, a FEED's word being 0x1000bb, and stops at the first byte the parser does not
accept; it returns the number `n` of bytes consumed. What it leaves is what those FEEDs leave: `v` after the `n` consumed bytes, `u`
after the held one too, where a byte was left (R69, 95_test_vectors.md programs 1 and 2). It stops before the end of the chunk
only in Done; an empty chunk changes nothing and a parser in Done consumes nothing. Where DECODE of `xs` consumed all of it,
DECODE of `xs ++ ys` is DECODE of `xs` followed by DECODE of `ys`, the responses too (decisions D5, D29). -/
def Obligations.DecodeIsItsFeeds : Prop :=
  (∀ (b : Byte) (f : Frame), decodeCommand (0x100000 + b.zeroExtend 24) f = .ok (.feed b)) ∧
  (∀ (chunk : List Byte) (s : State), s.admitted → s.parser.Inv →
    ∃ (n : Nat) (u v : State), exec (.decode chunk) s = .next (u.returnCount n) ∧ n ≤ chunk.length ∧
      s.runFeeds (chunk.take n) = .next v ∧ v.responses = List.replicate n (Response.okData 0x01) ++ s.responses ∧
      s.runFeeds (chunk.take (n + 1)) = .next u ∧ u.parser = v.parser ∧
      (n < chunk.length → v.parser.st = .done ∧ u.responses = Response.held :: v.responses) ∧
      (n = chunk.length → u = v) ∧ (s.parser.st = .done → n = 0) ∧ (chunk = [] → u = s)) ∧
  (∀ (xs ys : List Byte) (m : Nat) (s t u : State), s.admitted → s.parser.Inv →
    exec (.decode xs) s = .next t → t.lastCount = some xs.length →
    exec (.decode ys) t = .next u → u.lastCount = some m →
    ∃ v, exec (.decode (xs ++ ys)) s = .next v ∧ v.parser = u.parser ∧ v.responses = u.responses ∧
      v.lastCount = some (xs.length + m))

/-- R109: STATUS returns the classification's code in every state and changes nothing. -/
def Obligations.StatusReturnsTheClassification : Prop :=
  (∀ f, decodeCommand 0x300000 f = .ok .status) ∧
  (∀ s : State, s.admitted → exec .status s = .next { s with
    responses := Response.okData (match s.parser.cls with
      | .needMoreData => 0x00 | .noError => 0x01 | .badFormat => 0x02 | .checkError => 0x03) :: s.responses })

/-- R110: TOFRAME delivers the parsed Frame in NoError and faults otherwise; no register changes; a fixed frame's payload is
empty and a variable frame's is the declared one; later commands leave the returned Frame as it was (decisions D9 and D17). -/
def Obligations.ToFrameDeliversTheParsedFrame : Prop :=
  (∀ f, decodeCommand 0x400000 f = .ok .toFrame) ∧
  (∀ s : State, s.admitted →
    (s.parser.cls ≠ .noError → s.faultsWith .toFrame 0x01) ∧
    (s.parser.cls = .noError → exec .toFrame s = .next { s with
      responses := Response.okFrame { ctrl := s.parser.ctrl, address := s.parser.addr.zeroExtend 16,
                                      payload := s.parser.pbuf } :: s.responses }) ∧
    (s.parser.Inv → s.parser.cls = .noError →
      (s.parser.kind = .fixed → s.parser.pbuf = []) ∧
      (s.parser.kind = .variable → s.parser.pbuf.length = s.parser.len0.toNat - 2 ∧ 1 ≤ s.parser.pbuf.length))) ∧
  (∀ (n : Nat) (s t u : State), exec .toFrame s = .next t → t.runSteps n = .next u →
    ∃ rs r, u.responses = rs ++ r :: s.responses ∧ t.responses = r :: s.responses)

/-- R111: RESET clears every register, from every state, also in the middle of a frame (decisions D13 and D22). -/
def Obligations.ResetClearsEveryRegister : Prop :=
  (∀ f, decodeCommand 0x200000 f = .ok .reset) ∧
  (∀ s : State, s.admitted → exec .reset s = .next { s with
    parser := { st := .awaitStart, cls := .needMoreData, kind := .fixed, ctrl := 0x00, addr := 0x00, len0 := 0x00,
                len1 := 0x00, pbuf := [], csrx := 0x00 }
    responses := Response.okData 0x00 :: s.responses })

/-! ### Laws of the parser -/

/-- R112: the round trip of a Frame through ENCODE and DECODE from the reset state. -/
def Obligations.DecodeOfEncodedFrameGivesTheFrame : Prop :=
  ∀ (f : Frame) (s : State), f.payload.length ≤ 253 → s.admitted → s.parser = ParserRegs.reset →
    ∃ (w : List Byte) (t : State), s.answers (.encode f) (.okBytes w) ∧
      exec (.decode w) s = .next t ∧ t.lastCount = some w.length ∧
      t.answers .status (.okData 0x01) ∧
      t.answers .toFrame (.okFrame
        { ctrl := f.ctrl, address := (f.address.extractLsb' 0 8).zeroExtend 16, payload := f.payload }) ∧
      (({ ctrl := f.ctrl, address := (f.address.extractLsb' 0 8).zeroExtend 16, payload := f.payload } : Frame) = f ↔
        f.address.toNat ≤ 0x00FF)

/-- R113: every strict prefix of an encoded frame leaves NeedMoreData and is consumed whole, and reaches AwaitEnd only when the
last byte alone is missing; Done is entered only from AwaitStart, AwaitRepeatedStart and AwaitEnd. -/
def Obligations.StrictPrefixesNeedMoreData : Prop :=
  (∀ (f : Frame) (w : List Byte) (k : Nat) (s : State), s.admitted → s.parser = ParserRegs.reset →
    s.answers (.encode f) (.okBytes w) → k < w.length →
    ∃ t, exec (.decode (w.take k)) s = .next t ∧ t.lastCount = some k ∧
      t.parser.cls = .needMoreData ∧ (t.parser.st = .awaitEnd → k + 1 = w.length)) ∧
  (∀ (b : Byte) (s t : State), exec (.feed b) s = .next t → s.parser.st ≠ .done → t.parser.st = .done →
    s.parser.st = .awaitStart ∨ s.parser.st = .awaitRepeatedStart ∨ s.parser.st = .awaitEnd)

/-- R114: with the checksum byte of an encoded frame replaced by `x`, DECODE gives NoError when `x` is the sum and CheckError
otherwise. -/
def Obligations.ChecksumByteDecidesCheckError : Prop :=
  ∀ (f : Frame) (w : List Byte) (x : Byte) (s : State), s.admitted → s.parser = ParserRegs.reset →
    s.answers (.encode f) (.okBytes w) →
    ∃ t, exec (.decode (w.set (w.length - 2) x)) s = .next t ∧
      (t.parser.cls = .checkError ↔ x ≠ cs8 f.ctrl (f.address.extractLsb' 0 8) f.payload) ∧
      (t.parser.cls = .noError ↔ x = cs8 f.ctrl (f.address.extractLsb' 0 8) f.payload)

/-- R115: a wrong first byte is BadFormat after one byte; a wrong last byte of an encoded frame is BadFormat after the whole
frame. -/
def Obligations.WrongStartOrEndIsBadFormat : Prop :=
  (∀ (b : Byte) (bs : List Byte) (s : State), s.admitted → s.parser = ParserRegs.reset → b ≠ 0x10 → b ≠ 0x68 →
    ∃ t, exec (.decode (b :: bs)) s = .next t ∧ t.lastCount = some 1 ∧ t.parser.cls = .badFormat) ∧
  (∀ (f : Frame) (w : List Byte) (y : Byte) (s : State), s.admitted → s.parser = ParserRegs.reset →
    s.answers (.encode f) (.okBytes w) → y ≠ 0x16 →
    ∃ t, exec (.decode (w.set (w.length - 1) y)) s = .next t ∧
      t.lastCount = some w.length ∧ t.parser.cls = .badFormat)

/-- R117: how many bytes DECODE consumes from reset, by where the parser stops; with fewer bytes than that, every byte is
consumed and the classification is NeedMoreData. -/
def Obligations.ConsumedCountsByOutcome : Prop :=
  ∀ (bytes : List Byte) (s : State), s.admitted → s.parser = ParserRegs.reset →
    ∃ (n : Nat) (t : State), exec (.decode bytes) s = .next t ∧ t.lastCount = some n ∧
      (bytes = [] → n = 0 ∧ t.parser.cls = .needMoreData) ∧
      (∀ b, bytes[0]? = some b → b ≠ 0x10 → b ≠ 0x68 → n = 1 ∧ t.parser.cls = .badFormat) ∧
      (bytes[0]? = some 0x10 →
        if 5 ≤ bytes.length then n = 5 ∧ t.parser.cls ≠ .needMoreData
        else n = bytes.length ∧ t.parser.cls = .needMoreData) ∧
      (bytes[0]? = some 0x68 → bytes.length < 4 → n = bytes.length ∧ t.parser.cls = .needMoreData) ∧
      (∀ l0 l1 m, bytes[0]? = some 0x68 → bytes[1]? = some l0 → bytes[2]? = some l1 → bytes[3]? = some m →
        if m ≠ 0x68 ∨ l0 ≠ l1 ∨ l0.toNat < 3 then n = 4 ∧ t.parser.cls = .badFormat
        else if l0.toNat + 6 ≤ bytes.length then n = l0.toNat + 6 ∧ t.parser.cls ≠ .needMoreData
        else n = bytes.length ∧ t.parser.cls = .needMoreData)

/-! ### Wire frames -/

/-- A wire frame is its bytes fed in order, from every state; it completes from every state that meets the invariant. (That a
wire frame is one transaction, which returns its count as DECODE does, is the model's choice, log entries 6 and 7.) -/
def Obligations.WireFramesAreDecodedByFeed : Prop :=
  (∀ (c a cs e : Byte) (s : State), exec (.frameFixed c a cs e) s = exec (.decode [0x10, c, a, cs, e]) s) ∧
  (∀ (l0 l1 m : Byte) (body : List Byte) (s : State),
    exec (.frameVariable l0 l1 m body) s = exec (.decode (0x68 :: l0 :: l1 :: m :: body)) s) ∧
  (∀ (c a cs e : Byte) (s : State), s.admitted → s.parser.Inv → ∃ t, exec (.frameFixed c a cs e) s = .next t) ∧
  (∀ (l0 l1 m : Byte) (body : List Byte) (s : State), s.admitted → s.parser.Inv →
    ∃ t, exec (.frameVariable l0 l1 m body) s = .next t)

/-- A fixed wire frame from reset: all five bytes are consumed, each with its FEED's response, and the registers are those of its
fields. (The count's form is the model's choice, log entries 6 and 7.) -/
def Obligations.FixedWireFrameFromReset : Prop :=
  ∀ (c a cs e : Byte) (s : State), s.admitted → s.parser = ParserRegs.reset →
    exec (.frameFixed c a cs e) s = .next { s with
      counts := 5 :: s.counts
      responses := List.replicate 5 (Response.okData 0x01) ++ s.responses
      parser := { ParserRegs.reset with
        st := .done, kind := .fixed, ctrl := c, addr := a, csrx := cs
        cls := if e ≠ 0x16 then .badFormat
          else if (c.toNat + a.toNat) % 256 ≠ cs.toNat then .checkError else .noError } }

/-- A variable wire frame from reset: rejected on its fourth byte, the fifth, where there is one, being held; or consumed whole with
the registers those of its fields, the payload found by position. (The count's form is the model's choice, log entries 6 and 7.) -/
def Obligations.VariableWireFrameFromReset : Prop :=
  (∀ (l0 l1 m : Byte) (body : List Byte) (s : State), s.admitted → s.parser = ParserRegs.reset →
    m ≠ 0x68 ∨ l0 ≠ l1 ∨ l0.toNat < 3 →
    exec (.frameVariable l0 l1 m body) s = .next { s with
      counts := 4 :: s.counts
      responses := (if body = [] then [] else [Response.held]) ++ List.replicate 4 (Response.okData 0x01) ++ s.responses
      parser := { ParserRegs.reset with st := .done, cls := .badFormat, kind := .variable, len0 := l0, len1 := l1 } }) ∧
  (∀ (l c a cs e : Byte) (payload : List Byte) (s : State), s.admitted → s.parser = ParserRegs.reset →
    3 ≤ l.toNat → payload.length = l.toNat - 2 →
    exec (.frameVariable l l 0x68 ([c, a] ++ payload ++ [cs, e])) s = .next { s with
      counts := (l.toNat + 6) :: s.counts
      responses := List.replicate (l.toNat + 6) (Response.okData 0x01) ++ s.responses
      parser :=
        { st := .done, kind := .variable, ctrl := c, addr := a, len0 := l, len1 := l, pbuf := payload, csrx := cs
          cls := if e ≠ 0x16 then .badFormat
            else if cs8 c a payload ≠ cs then .checkError else .noError } })

/-! ### The control-byte multiplexer -/

/-- R73, R74 and R79: the unguarded reads return bit 7, bit 6 and bits 3:0; a non-zero `val` is refused. -/
def Obligations.UnguardedReads : Prop :=
  (∀ (c : Byte) (f : Frame), decodeCommand (0x500000 + c.zeroExtend 24) f = .ok (.getDir c) ∧
    decodeCommand (0x510000 + c.zeroExtend 24) f = .ok (.getPrm c) ∧
    decodeCommand (0x560000 + c.zeroExtend 24) f = .ok (.getFc c)) ∧
  (∀ (sel : BitVec 4) (val c : Byte) (f : Frame), val ≠ 0 → ∃ e, decodeCommand (cmdWord 0x5 sel val c) f = .error e) ∧
  (∀ (c : Byte) (s : State), s.admitted →
    exec (.getDir c) s = .next (s.respond (.okData ((c.extractLsb' 7 1).zeroExtend 8))) ∧
    exec (.getPrm c) s = .next (s.respond (.okData ((c.extractLsb' 6 1).zeroExtend 8))) ∧
    exec (.getFc c) s = .next (s.respond (.okData ((c.extractLsb' 0 4).zeroExtend 8))))

/-- R75: GET.FCB answers bit 5 when PRM = 1 and FCV = 1, and NONE otherwise. -/
def Obligations.GetFcbIsGuardedByPrmAndFcv : Prop :=
  (∀ (c : Byte) (f : Frame), decodeCommand (0x520000 + c.zeroExtend 24) f = .ok (.getFcb c)) ∧
  (∀ (c : Byte) (s : State), s.admitted →
    (c.getLsbD 6 = true ∧ c.getLsbD 4 = true →
      exec (.getFcb c) s = .next (s.respond (.okData ((c.extractLsb' 5 1).zeroExtend 8)))) ∧
    (¬ (c.getLsbD 6 = true ∧ c.getLsbD 4 = true) → exec (.getFcb c) s = .next (s.respond .absent)))

/-- R76, R77 and R78: GET.FCV answers bit 4 when PRM = 1, GET.ACD bit 5 and GET.DFC bit 4 when PRM = 0, and NONE
otherwise. -/
def Obligations.ReadsGuardedByPrm : Prop :=
  (∀ (c : Byte) (f : Frame), decodeCommand (0x530000 + c.zeroExtend 24) f = .ok (.getFcv c) ∧
    decodeCommand (0x540000 + c.zeroExtend 24) f = .ok (.getAcd c) ∧
    decodeCommand (0x550000 + c.zeroExtend 24) f = .ok (.getDfc c)) ∧
  (∀ (c : Byte) (s : State), s.admitted →
    (c.getLsbD 6 = true →
      exec (.getFcv c) s = .next (s.respond (.okData ((c.extractLsb' 4 1).zeroExtend 8))) ∧
      exec (.getAcd c) s = .next (s.respond .absent) ∧ exec (.getDfc c) s = .next (s.respond .absent)) ∧
    (c.getLsbD 6 = false →
      exec (.getFcv c) s = .next (s.respond .absent) ∧
      exec (.getAcd c) s = .next (s.respond (.okData ((c.extractLsb' 5 1).zeroExtend 8))) ∧
      exec (.getDfc c) s = .next (s.respond (.okData ((c.extractLsb' 4 1).zeroExtend 8)))))

/-- R80: VIEW answers for every byte: PRM as the tag, then bits 5 and 4. -/
def Obligations.ViewTagsBitsFiveAndFour : Prop :=
  (∀ (c : Byte) (f : Frame), decodeCommand (0x570000 + c.zeroExtend 24) f = .ok (.view c)) ∧
  (∀ c : Byte, viewOf c = if c.getLsbD 6 then .primary (c.extractLsb' 5 1) (c.extractLsb' 4 1)
    else .secondary (c.extractLsb' 5 1) (c.extractLsb' 4 1)) ∧
  (∀ (c : Byte) (s : State), s.admitted →
    exec (.view c) s = .next (s.respond (.okData ((c.extractLsb' 4 3).zeroExtend 8))))

/-- R81, R82 and R87: the unguarded writes return the control byte with the field replaced; a value wider than the field is
refused. -/
def Obligations.UnguardedWrites : Prop :=
  (∀ (c : Byte) (v : BitVec 1) (f : Frame),
    decodeCommand (cmdWord 0x6 0x0 (v.zeroExtend 8) c) f = .ok (.setDir c v) ∧
    decodeCommand (cmdWord 0x6 0x1 (v.zeroExtend 8) c) f = .ok (.setPrm c v)) ∧
  (∀ (c : Byte) (v : BitVec 4) (f : Frame), decodeCommand (cmdWord 0x6 0x6 (v.zeroExtend 8) c) f = .ok (.setFc c v)) ∧
  (∀ (sel : BitVec 4) (val c : Byte) (f : Frame), sel ≠ 6 ∧ 2 ≤ val.toNat ∨ 16 ≤ val.toNat →
    ∃ e, decodeCommand (cmdWord 0x6 sel val c) f = .error e) ∧
  (∀ (c : Byte) (v : BitVec 1) (s : State), s.admitted →
    exec (.setDir c v) s = .next (s.respond (.okData ((c &&& ~~~0x80#8) ||| (v.zeroExtend 8 <<< 7)))) ∧
    exec (.setPrm c v) s = .next (s.respond (.okData ((c &&& ~~~0x40#8) ||| (v.zeroExtend 8 <<< 6))))) ∧
  (∀ (c : Byte) (v : BitVec 4) (s : State), s.admitted →
    exec (.setFc c v) s = .next (s.respond (.okData ((c &&& ~~~0x0F#8) ||| v.zeroExtend 8))))

/-- R83 to R86: SET.FCB and SET.FCV write bits 5 and 4 when PRM = 1, SET.ACD and SET.DFC the same bits when PRM = 0, and each
answers NONE in the other context. -/
def Obligations.WritesGuardedByPrm : Prop :=
  (∀ (c : Byte) (v : BitVec 1) (f : Frame),
    decodeCommand (cmdWord 0x6 0x2 (v.zeroExtend 8) c) f = .ok (.setFcb c v) ∧
    decodeCommand (cmdWord 0x6 0x3 (v.zeroExtend 8) c) f = .ok (.setFcv c v) ∧
    decodeCommand (cmdWord 0x6 0x4 (v.zeroExtend 8) c) f = .ok (.setAcd c v) ∧
    decodeCommand (cmdWord 0x6 0x5 (v.zeroExtend 8) c) f = .ok (.setDfc c v)) ∧
  (∀ (c : Byte) (v : BitVec 1) (s : State), s.admitted →
    (c.getLsbD 6 = true →
      exec (.setFcb c v) s = .next (s.respond (.okData ((c &&& ~~~0x20#8) ||| (v.zeroExtend 8 <<< 5)))) ∧
      exec (.setFcv c v) s = .next (s.respond (.okData ((c &&& ~~~0x10#8) ||| (v.zeroExtend 8 <<< 4)))) ∧
      exec (.setAcd c v) s = .next (s.respond .absent) ∧ exec (.setDfc c v) s = .next (s.respond .absent)) ∧
    (c.getLsbD 6 = false →
      exec (.setFcb c v) s = .next (s.respond .absent) ∧ exec (.setFcv c v) s = .next (s.respond .absent) ∧
      exec (.setAcd c v) s = .next (s.respond (.okData ((c &&& ~~~0x20#8) ||| (v.zeroExtend 8 <<< 5)))) ∧
      exec (.setDfc c v) s = .next (s.respond (.okData ((c &&& ~~~0x10#8) ||| (v.zeroExtend 8 <<< 4))))))

/-- R71: a read or a write answers OK exactly in its PRM (and for GET.FCB its FCV) context and NONE exactly outside it; DIR,
PRM, FC and VIEW always answer OK. A command that answers changes nothing else (decisions D6 and D7). -/
def Obligations.PrmContextDecidesNone : Prop :=
  ∀ (fld : CtrlField) (c : Byte) (s : State), s.admitted →
    let readNone := (fld = .fcb ∧ ¬ (c.getLsbD 6 = true ∧ c.getLsbD 4 = true)) ∨ (fld = .fcv ∧ c.getLsbD 6 = false) ∨
      ((fld = .acd ∨ fld = .dfc) ∧ c.getLsbD 6 = true)
    let writeNone := ((fld = .fcb ∨ fld = .fcv) ∧ c.getLsbD 6 = false) ∨ ((fld = .acd ∨ fld = .dfc) ∧ c.getLsbD 6 = true)
    (s.answers (getInstr fld c) .absent ↔ readNone) ∧
    ((∃ d, s.answers (getInstr fld c) (.okData d)) ↔ ¬ readNone) ∧
    (∀ v, (s.answers (setInstr fld c v) .absent ↔ writeNone) ∧
      ((∃ d, s.answers (setInstr fld c v) (.okData d)) ↔ ¬ writeNone)) ∧
    ∃ d, s.answers (.view c) (.okData d)

/-- R72: a SET that returns OK changes only the bits of its field's mask, and the field then holds the value; no register is
written. -/
def Obligations.SetChangesOnlyItsField : Prop :=
  ∀ (fld : CtrlField) (c : Byte) (v : BitVec fld.width) (s t : State), s.admitted →
    exec (setInstr fld c v) s = .next t →
    t = s.respond .absent ∨
    ∃ c', t = s.respond (.okData c') ∧ c' &&& ~~~fld.mask = c &&& ~~~fld.mask ∧
      (c' &&& fld.mask) >>> fld.shift = v.zeroExtend 8

/-- R88: the laws of the multiplexer, said of the commands' responses. -/
def Obligations.MultiplexerLaws : Prop :=
  ∀ s : State, s.admitted →
    (∀ (fld : CtrlField) (c c' : Byte) (v : BitVec fld.width), s.answers (setInstr fld c v) (.okData c') →
      (¬ (fld = .fcb ∧ c.getLsbD 4 = false) → s.answers (getInstr fld c') (.okData (v.zeroExtend 8))) ∧
      (fld = .fcb ∧ c.getLsbD 4 = false → s.answers (getInstr fld c') .absent)) ∧
    (∀ (fld : CtrlField) (c : Byte) (v : BitVec fld.width), s.answers (getInstr fld c) (.okData (v.zeroExtend 8)) →
      s.answers (setInstr fld c v) (.okData c)) ∧
    (∀ (fld : CtrlField) (c c' d e : Byte) (v w : BitVec fld.width), s.answers (setInstr fld c v) (.okData c') →
      s.answers (setInstr fld c' w) (.okData d) → s.answers (setInstr fld c w) (.okData e) → d = e) ∧
    (∀ (f g : CtrlField) (c c₁ d₁ c₂ d₂ : Byte) (v : BitVec f.width) (w : BitVec g.width), f.mask &&& g.mask = 0 →
      s.answers (setInstr f c v) (.okData c₁) → s.answers (setInstr g c₁ w) (.okData d₁) →
      s.answers (setInstr g c w) (.okData c₂) → s.answers (setInstr f c₂ v) (.okData d₂) → d₁ = d₂) ∧
    (∀ (c c' x y z : Byte), s.answers (.view c) (.okData x) → s.answers (.view c') (.okData x) →
      s.answers (.getDir c) (.okData y) → s.answers (.getDir c') (.okData y) →
      s.answers (.getFc c) (.okData z) → s.answers (.getFc c') (.okData z) → c = c')

/-! ### The Frame value and its encoder -/

/-- R91: HASPAYLOAD answers 1 for a non-empty payload of any length and 0 otherwise. -/
def Obligations.HasPayloadTestsEmptiness : Prop :=
  (∀ f, decodeCommand 0x800000 f = .ok (.hasPayload f)) ∧
  (∀ (sel : BitVec 4) (val data : Byte) (f : Frame), sel ≠ 0 ∨ val ≠ 0 ∨ data ≠ 0 →
    ∃ e, decodeCommand (cmdWord 0x8 sel val data) f = .error e) ∧
  (∀ (f : Frame) (s : State), s.admitted →
    (f.payload ≠ [] → exec (.hasPayload f) s = .next (s.respond (.okData 0x01))) ∧
    (f.payload = [] → exec (.hasPayload f) s = .next (s.respond (.okData 0x00))))

/-- R92: ENCODE gives the exact wire bytes, with the low address byte and the wrapped sum, and faults over 253 payload
bytes (decisions D10 and D11). -/
def Obligations.EncodeGivesTheWireBytes : Prop :=
  (∀ f, decodeCommand 0x700000 f = .ok (.encode f)) ∧
  (∀ (f : Frame) (s : State), s.admitted →
    let c := f.ctrl
    let a : Byte := f.address.extractLsb' 0 8
    let l : Byte := BitVec.ofNat 8 (2 + f.payload.length)
    let cs : Byte := BitVec.ofNat 8 ((c.toNat + a.toNat + (f.payload.map BitVec.toNat).sum) % 256)
    (253 < f.payload.length → s.faultsWith (.encode f) 0x02) ∧
    (f.payload = [] → exec (.encode f) s = .next (s.respond (.okBytes [0x10, c, a, cs, 0x16]))) ∧
    (f.payload ≠ [] → f.payload.length ≤ 253 → l.toNat = 2 + f.payload.length ∧ exec (.encode f) s =
      .next (s.respond (.okBytes ([0x68, l, l, 0x68, c, a] ++ f.payload ++ [cs, 0x16])))))

/-- R95: the laws of ENCODE, said of the bytes it answers with. -/
def Obligations.EncodeLaws : Prop :=
  ∀ (f : Frame) (s : State), s.admitted → f.payload.length ≤ 253 →
    ∃ w, s.answers (.encode f) (.okBytes w) ∧
      (w[0]? = some 0x10 ↔ f.payload = []) ∧ (f.payload ≠ [] → w[0]? = some 0x68 ∧ w[3]? = some 0x68) ∧
      w.getLast? = some 0x16 ∧ w.length = (if f.payload = [] then 5 else f.payload.length + 8) ∧
      (f.payload = [] → w[3]? = some (cs8 f.ctrl (f.address.extractLsb' 0 8) f.payload)) ∧
      (f.payload ≠ [] → ∃ l, w[1]? = some l ∧ w[2]? = some l ∧ 3 ≤ l.toNat ∧
        w[l.toNat + 4]? = some (cs8 f.ctrl (f.address.extractLsb' 0 8) f.payload)) ∧
      ∀ g : Frame, g.ctrl = f.ctrl → g.payload = f.payload →
        g.address.extractLsb' 0 8 = f.address.extractLsb' 0 8 → s.answers (.encode g) (.okBytes w)

/-- R90: a Frame's kind follows from its payload and from nothing else; it is the kind of the frame on the wire, in its start
byte and its length, and the kind the parser records of it. -/
def Obligations.FrameKindFollowsThePayload : Prop :=
  (∀ f : Frame, frameKind f = .fixed ↔ f.payload = []) ∧
  (∀ f g : Frame, f.payload = g.payload → frameKind f = frameKind g) ∧
  (∀ (f : Frame) (s : State), s.admitted → s.parser = ParserRegs.reset → f.payload.length ≤ 253 →
    ∃ w t, s.answers (.encode f) (.okBytes w) ∧ (w[0]? = some 0x10 ↔ frameKind f = .fixed) ∧
      (w[0]? = some 0x68 ↔ frameKind f = .variable) ∧ (frameKind f = .fixed → w.length = 5) ∧
      exec (.decode w) s = .next t ∧ t.parser.kind = frameKind f)

/-- R93 and R94: an accessor on a Frame answers as GET does on its control byte, and a setter as SET does, giving a new Frame
that differs in its control byte alone. -/
def Obligations.FrameAccessorsAreControlByteCommands : Prop :=
  ∀ (f : Frame) (s : State), s.admitted →
    s.answers (.getPrm f.ctrl) (.ofOption (isPrimaryMessage f)) ∧
    s.answers (.getDir f.ctrl) (.ofOption (isFromSlaveStation f)) ∧
    s.answers (.getFcb f.ctrl) (.ofOption (frameCountBit f)) ∧
    s.answers (.getAcd f.ctrl) (.ofOption (hasAccessDemand f)) ∧
    s.answers (.getFcv f.ctrl) (.ofOption (frameCountValid f)) ∧
    s.answers (.getDfc f.ctrl) (.ofOption (dataFlowControl f)) ∧
    s.answers (.getFc f.ctrl) (.ofOption (functionCode f)) ∧
    (∀ (fld : CtrlField) (v : BitVec fld.width),
      (frameSet fld f v = none ↔ s.answers (setInstr fld f.ctrl v) .absent) ∧
      (∀ g, frameSet fld f v = some g ↔
        s.answers (setInstr fld f.ctrl v) (.okData g.ctrl) ∧ g.address = f.address ∧ g.payload = f.payload))
end

