-- ==== Sys2Proof/Laws/Decode.lean ====
section
/-!
SUPPORT. The fields of a command word built from its fields (30_encoding R50).
-/
namespace Sys2Proof

@[simp] theorem opField_cmdWord (op sel : BitVec 4) (val data : Byte) : opField (cmdWord op sel val data) = op := by
  apply BitVec.eq_of_getLsbD_eq
  intro i hi
  simp only [opField, cmdWord, BitVec.getLsbD_extractLsb', BitVec.getLsbD_append]
  have h1 : ¬ (20 + i < 8) := by omega
  have h2 : ¬ (20 + i - 8 < 8) := by omega
  have h3 : ¬ (20 + i - 8 - 8 < 4) := by omega
  have h4 : 20 + i - 8 - 8 - 4 = i := by omega
  simp [hi, h1, h2, h3, h4]

@[simp] theorem selField_cmdWord (op sel : BitVec 4) (val data : Byte) : selField (cmdWord op sel val data) = sel := by
  apply BitVec.eq_of_getLsbD_eq
  intro i hi
  simp only [selField, cmdWord, BitVec.getLsbD_extractLsb', BitVec.getLsbD_append]
  have h1 : ¬ (16 + i < 8) := by omega
  have h2 : ¬ (16 + i - 8 < 8) := by omega
  have h3 : 16 + i - 8 - 8 = i := by omega
  simp [hi, h1, h2, h3]

@[simp] theorem valField_cmdWord (op sel : BitVec 4) (val data : Byte) : valField (cmdWord op sel val data) = val := by
  apply BitVec.eq_of_getLsbD_eq
  intro i hi
  simp only [valField, cmdWord, BitVec.getLsbD_extractLsb', BitVec.getLsbD_append]
  have h1 : ¬ (8 + i < 8) := by omega
  have h2 : 8 + i - 8 = i := by omega
  simp [hi, h1, h2]

@[simp] theorem dataField_cmdWord (op sel : BitVec 4) (val data : Byte) : dataField (cmdWord op sel val data) = data := by
  apply BitVec.eq_of_getLsbD_eq
  intro i hi
  simp only [dataField, cmdWord, BitVec.getLsbD_extractLsb', BitVec.getLsbD_append]
  simp [hi]

/-- Masking a command word masks its fields. -/
theorem cmdWord_and (o o' l l' : BitVec 4) (v v' d d' : Byte) :
    cmdWord o l v d &&& cmdWord o' l' v' d' = cmdWord (o &&& o') (l &&& l') (v &&& v') (d &&& d') := by
  apply BitVec.eq_of_getLsbD_eq
  intro i _
  simp only [cmdWord, BitVec.getLsbD_and, BitVec.getLsbD_append]
  split_ifs <;> rfl

end Sys2Proof
end

