-- ==== Sys2Proof/Laws/State.lean ====
section
/-!
SUPPORT. One lemma per field and update, so that no later proof unfolds a record update.
-/
namespace Sys2Proof.Machine

@[simp] theorem State.respond_addrBytes (s : State) (r : Response) : (s.respond r).addrBytes = s.addrBytes := rfl
@[simp] theorem State.respond_parser (s : State) (r : Response) : (s.respond r).parser = s.parser := rfl
@[simp] theorem State.respond_pending (s : State) (r : Response) : (s.respond r).pending = s.pending := rfl
@[simp] theorem State.respond_counts (s : State) (r : Response) : (s.respond r).counts = s.counts := rfl
@[simp] theorem State.respond_responses (s : State) (r : Response) :
    (s.respond r).responses = r :: s.responses := rfl

@[simp] theorem State.afterFeed_addrBytes (s : State) (p : ParserRegs) : (s.afterFeed p).addrBytes = s.addrBytes := rfl
@[simp] theorem State.afterFeed_parser (s : State) (p : ParserRegs) : (s.afterFeed p).parser = p := rfl
@[simp] theorem State.afterFeed_pending (s : State) (p : ParserRegs) : (s.afterFeed p).pending = s.pending := rfl
@[simp] theorem State.afterFeed_counts (s : State) (p : ParserRegs) : (s.afterFeed p).counts = s.counts := rfl
@[simp] theorem State.afterFeed_responses (s : State) (p : ParserRegs) :
    (s.afterFeed p).responses = Response.okData 0x01 :: s.responses := rfl

@[simp] theorem State.returnCount_addrBytes (s : State) (n : Nat) : (s.returnCount n).addrBytes = s.addrBytes := rfl
@[simp] theorem State.returnCount_parser (s : State) (n : Nat) : (s.returnCount n).parser = s.parser := rfl
@[simp] theorem State.returnCount_pending (s : State) (n : Nat) : (s.returnCount n).pending = s.pending := rfl
@[simp] theorem State.returnCount_responses (s : State) (n : Nat) : (s.returnCount n).responses = s.responses := rfl
@[simp] theorem State.returnCount_counts (s : State) (n : Nat) : (s.returnCount n).counts = n :: s.counts := rfl

@[simp] theorem State.respond_lastOutcome (s : State) (r : Response) : (s.respond r).lastOutcome = some r.outcome := rfl

@[simp] theorem State.withFetchWord_addrBytes (s : State) (n w : Nat) :
    (s.withFetchWord n w).addrBytes = s.addrBytes := rfl
@[simp] theorem State.withFetchWord_parser (s : State) (n w : Nat) : (s.withFetchWord n w).parser = s.parser := rfl
@[simp] theorem State.withFetchWord_pending (s : State) (n w : Nat) :
    (s.withFetchWord n w).pending = tableRequest n w :: s.pending := rfl
@[simp] theorem State.withFetchWord_counts (s : State) (n w : Nat) : (s.withFetchWord n w).counts = s.counts := rfl
@[simp] theorem State.withFetchWord_responses (s : State) (n w : Nat) :
    (s.withFetchWord n w).responses = s.responses := rfl

@[simp] theorem ParserRegs.enterDone_st (p : ParserRegs) (c : Classification) : (p.enterDone c).st = .done := rfl
@[simp] theorem ParserRegs.enterDone_cls (p : ParserRegs) (c : Classification) : (p.enterDone c).cls = c := rfl
@[simp] theorem ParserRegs.enterDone_kind (p : ParserRegs) (c : Classification) : (p.enterDone c).kind = p.kind := rfl
@[simp] theorem ParserRegs.enterDone_ctrl (p : ParserRegs) (c : Classification) : (p.enterDone c).ctrl = p.ctrl := rfl
@[simp] theorem ParserRegs.enterDone_addr (p : ParserRegs) (c : Classification) : (p.enterDone c).addr = p.addr := rfl
@[simp] theorem ParserRegs.enterDone_len0 (p : ParserRegs) (c : Classification) : (p.enterDone c).len0 = p.len0 := rfl
@[simp] theorem ParserRegs.enterDone_len1 (p : ParserRegs) (c : Classification) : (p.enterDone c).len1 = p.len1 := rfl
@[simp] theorem ParserRegs.enterDone_pbuf (p : ParserRegs) (c : Classification) : (p.enterDone c).pbuf = p.pbuf := rfl
@[simp] theorem ParserRegs.enterDone_csrx (p : ParserRegs) (c : Classification) : (p.enterDone c).csrx = p.csrx := rfl

@[simp] theorem ParserRegs.pbufAppend_st (p : ParserRegs) (b : Byte) : (p.pbufAppend b).st = p.st := rfl
@[simp] theorem ParserRegs.pbufAppend_cls (p : ParserRegs) (b : Byte) : (p.pbufAppend b).cls = p.cls := rfl
@[simp] theorem ParserRegs.pbufAppend_kind (p : ParserRegs) (b : Byte) : (p.pbufAppend b).kind = p.kind := rfl
@[simp] theorem ParserRegs.pbufAppend_ctrl (p : ParserRegs) (b : Byte) : (p.pbufAppend b).ctrl = p.ctrl := rfl
@[simp] theorem ParserRegs.pbufAppend_addr (p : ParserRegs) (b : Byte) : (p.pbufAppend b).addr = p.addr := rfl
@[simp] theorem ParserRegs.pbufAppend_len0 (p : ParserRegs) (b : Byte) : (p.pbufAppend b).len0 = p.len0 := rfl
@[simp] theorem ParserRegs.pbufAppend_len1 (p : ParserRegs) (b : Byte) : (p.pbufAppend b).len1 = p.len1 := rfl
@[simp] theorem ParserRegs.pbufAppend_pbuf (p : ParserRegs) (b : Byte) : (p.pbufAppend b).pbuf = p.pbuf ++ [b] := rfl
@[simp] theorem ParserRegs.pbufAppend_csrx (p : ParserRegs) (b : Byte) : (p.pbufAppend b).csrx = p.csrx := rfl

@[simp] theorem ParserRegs.leaveDone_eq (p : ParserRegs) : p.leaveDone = ParserRegs.reset := rfl

@[simp] theorem ParserRegs.reset_st : ParserRegs.reset.st = .awaitStart := rfl
@[simp] theorem ParserRegs.reset_cls : ParserRegs.reset.cls = .needMoreData := rfl
@[simp] theorem ParserRegs.reset_kind : ParserRegs.reset.kind = .fixed := rfl
@[simp] theorem ParserRegs.reset_pbuf : ParserRegs.reset.pbuf = [] := rfl

end Sys2Proof.Machine
end

