-- ==== Sys2Proof/Laws/Ops.lean ====
section
/-!
SUPPORT. What the shared operations can do, said once: completing a command, and one byte or one chunk offered to the parser.
-/
namespace Sys2Proof.Machine

/-! ### Completing a command -/

theorem State.answer_admitted {s : State} (h : s.admitted) (r : Response) : s.answer r = .next (s.respond r) := by
  simp [State.answer, h]

theorem State.answer_unsupported {s : State} (h : ¬ s.admitted) (r : Response) :
    s.answer r = .next (s.respond (.refused .addrWidthUnsupported)) := by
  simp [State.answer, h]

/-- `answer` always gives a next state, and it is `s` with one more response. -/
theorem State.answer_cases (s : State) (r : Response) :
    ∃ q, s.answer r = .next (s.respond q) ∧ (q = r ∨ q = .refused .addrWidthUnsupported) := by
  by_cases h : s.admitted
  · exact ⟨r, State.answer_admitted h r, .inl rfl⟩
  · exact ⟨_, State.answer_unsupported h r, .inr rfl⟩

theorem State.completeParser_admitted {s : State} {p : ParserRegs} (h : s.admitted)
    (hp : pbufOverflowed s.parser p = false) (r : Response) :
    s.completeParser p r = .next ({ s with parser := p }.respond r) := by
  simp [State.completeParser, h, hp]

theorem State.completeParser_unsupported {s : State} (h : ¬ s.admitted) (p : ParserRegs) (r : Response) :
    s.completeParser p r = .next (s.respond (.refused .addrWidthUnsupported)) := by
  simp [State.completeParser, h]

/-- Everything `completeParser` can answer with a next state. -/
theorem State.completeParser_next {s t : State} {p : ParserRegs} {r : Response} (h : s.completeParser p r = .next t) :
    (s.admitted ∧ pbufOverflowed s.parser p = false ∧ t = { s with parser := p }.respond r) ∨
    (¬ s.admitted ∧ t = s.respond (.refused .addrWidthUnsupported)) := by
  by_cases ha : s.admitted
  · cases hp : pbufOverflowed s.parser p with
    | false =>
      rw [State.completeParser_admitted ha hp] at h
      exact .inl ⟨ha, rfl, by cases h; rfl⟩
    | true => simp [State.completeParser, ha, hp] at h
  · rw [State.completeParser_unsupported ha] at h
    exact .inr ⟨ha, by cases h; rfl⟩

theorem pbufOverflowed_of_le {p q : ParserRegs} (h : q.pbuf.length ≤ Config.payloadMax) :
    pbufOverflowed p q = false := by
  simp [pbufOverflowed, h]

theorem pbufOverflowed_of_pbuf_eq {p q : ParserRegs} (h : q.pbuf = p.pbuf) : pbufOverflowed p q = false := by
  simp [pbufOverflowed, h]

/-! ### The classification -/

theorem repeatedStartOk_iff (p : ParserRegs) (b : Byte) :
    repeatedStartOk p b = true ↔ b = 0x68 ∧ p.len0 = p.len1 ∧ 3 ≤ p.len0.toNat := by
  unfold repeatedStartOk Config.lMin Config.startVar
  simp [and_assoc]

theorem endClass_of_ne {p : ParserRegs} {b : Byte} (h : b ≠ 0x16) : endClass p b = .badFormat := if_pos h

theorem endClass_of_sum_ne {p : ParserRegs} (h : cs8 p.ctrl p.addr p.pbuf ≠ p.csrx) :
    endClass p 0x16 = .checkError := by
  simp [endClass, h, Config.endMark]

theorem endClass_of_sum_eq {p : ParserRegs} (h : cs8 p.ctrl p.addr p.pbuf = p.csrx) :
    endClass p 0x16 = .noError := by
  simp [endClass, h, Config.endMark]

/-- The checksum is the sum of all bytes mod 256. -/
theorem cs8_toNat (c a : Byte) (p : List Byte) :
    (cs8 c a p).toNat = (c.toNat + a.toNat + (p.map BitVec.toNat).sum) % 256 := by
  simp [cs8]

/-! ### One byte -/

theorem feedByte_awaitStart {p : ParserRegs} (h : p.st = .awaitStart) (b : Byte) :
    feedByte p b = feedAwaitStart p b := by simp [feedByte, h]
theorem feedByte_awaitLength0 {p : ParserRegs} (h : p.st = .awaitLength0) (b : Byte) :
    feedByte p b = feedAwaitLength0 p b := by simp [feedByte, h]
theorem feedByte_awaitLength1 {p : ParserRegs} (h : p.st = .awaitLength1) (b : Byte) :
    feedByte p b = feedAwaitLength1 p b := by simp [feedByte, h]
theorem feedByte_awaitRepeatedStart {p : ParserRegs} (h : p.st = .awaitRepeatedStart) (b : Byte) :
    feedByte p b = feedAwaitRepeatedStart p b := by simp [feedByte, h]
theorem feedByte_awaitControl {p : ParserRegs} (h : p.st = .awaitControl) (b : Byte) :
    feedByte p b = feedAwaitControl p b := by simp [feedByte, h]
theorem feedByte_awaitAddress {p : ParserRegs} (h : p.st = .awaitAddress) (b : Byte) :
    feedByte p b = feedAwaitAddress p b := by simp [feedByte, h]
theorem feedByte_awaitPayload {p : ParserRegs} (h : p.st = .awaitPayload) (b : Byte) :
    feedByte p b = feedAwaitPayload p b := by simp [feedByte, h]
theorem feedByte_awaitChecksum {p : ParserRegs} (h : p.st = .awaitChecksum) (b : Byte) :
    feedByte p b = feedAwaitChecksum p b := by simp [feedByte, h]
theorem feedByte_awaitEnd {p : ParserRegs} (h : p.st = .awaitEnd) (b : Byte) :
    feedByte p b = feedAwaitEnd p b := by simp [feedByte, h]

theorem execFeed_held {s : State} (h : s.parser.st = .done) (b : Byte) : execFeed b s = s.answer .held := by
  simp [execFeed, h]

theorem execFeed_consumed {s : State} (h : s.parser.st ≠ .done) (b : Byte) :
    execFeed b s = s.completeParser (feedByte s.parser b) (.okData 0x01) := by
  cases hs : s.parser.st <;> simp_all [execFeed]

theorem execToFrame_ready {s : State} (h : s.parser.cls = .noError) :
    execToFrame s = s.answer (.okFrame s.parser.frame) := by
  simp [execToFrame, h]

theorem execToFrame_notReady {s : State} (h : s.parser.cls ≠ .noError) :
    execToFrame s = s.answer (.faulted .toFrameNotReady) := by
  cases hs : s.parser.cls <;> simp_all [execToFrame]

theorem feedByte_done {p : ParserRegs} (h : p.st = .done) (b : Byte) : feedByte p b = p := by
  simp [feedByte, h]

/-- A byte leaves `pbuf` as it is, but in AwaitPayload, where it is appended. -/
theorem feedByte_pbuf (p : ParserRegs) (b : Byte) :
    (feedByte p b).pbuf = if p.st = .awaitPayload then p.pbuf ++ [b] else p.pbuf := by
  unfold feedByte
  cases h : p.st <;> simp only [reduceCtorEq, if_false, if_true]
  · unfold feedAwaitStart; split <;> [rfl; (split <;> rfl)]
  · rfl
  · rfl
  · unfold feedAwaitRepeatedStart; split <;> rfl
  · rfl
  · unfold feedAwaitAddress; split <;> rfl
  · unfold feedAwaitPayload; simp only; split <;> rfl
  · rfl
  · rfl

/-! ### A chunk -/

/-- The closed form of a chunk offered to the parser: the registers it leaves, and how many of its bytes were accepted. -/
def offerBytes (p : ParserRegs) : List Byte → ParserRegs × Nat
  | [] => (p, 0)
  | b :: bs =>
    if p.st = .done then (p, 0)
    else ((offerBytes (feedByte p b) bs).1, (offerBytes (feedByte p b) bs).2 + 1)

/-- What a chunk leaves of an instance in the admitted configuration, where `n` of DECODE's bytes were consumed before it:
an OK 0x01 for every byte accepted, HOLD for the byte that stops it, where one does, and the count returned. -/
def State.afterChunk (s : State) (bs : List Byte) (n : Nat) : State :=
  { s with
    parser := (offerBytes s.parser bs).1
    responses := (if (offerBytes s.parser bs).2 < bs.length then [Response.held] else []) ++
      List.replicate (offerBytes s.parser bs).2 (Response.okData 0x01) ++ s.responses
    counts := (n + (offerBytes s.parser bs).2) :: s.counts }

@[simp] theorem State.afterChunk_addrBytes (s : State) (bs : List Byte) (n : Nat) :
    (s.afterChunk bs n).addrBytes = s.addrBytes := rfl
@[simp] theorem State.afterChunk_parser (s : State) (bs : List Byte) (n : Nat) :
    (s.afterChunk bs n).parser = (offerBytes s.parser bs).1 := rfl
@[simp] theorem State.afterChunk_pending (s : State) (bs : List Byte) (n : Nat) :
    (s.afterChunk bs n).pending = s.pending := rfl
@[simp] theorem State.afterChunk_counts (s : State) (bs : List Byte) (n : Nat) :
    (s.afterChunk bs n).counts = (n + (offerBytes s.parser bs).2) :: s.counts := rfl

@[simp] theorem offerBytes_nil (p : ParserRegs) : offerBytes p [] = (p, 0) := rfl

theorem offerBytes_done {p : ParserRegs} (h : p.st = .done) (bs : List Byte) : offerBytes p bs = (p, 0) := by
  cases bs <;> simp [offerBytes, h]

theorem offerBytes_cons {p : ParserRegs} (h : p.st ≠ .done) (b : Byte) (bs : List Byte) :
    offerBytes p (b :: bs) = ((offerBytes (feedByte p b) bs).1, (offerBytes (feedByte p b) bs).2 + 1) := by
  simp [offerBytes, h]

/-- DECODE never consumes more bytes than it was given. -/
theorem offerBytes_count_le (p : ParserRegs) (bs : List Byte) : (offerBytes p bs).2 ≤ bs.length := by
  induction bs generalizing p with
  | nil => simp
  | cons b bs ih =>
    by_cases h : p.st = .done
    · simp [offerBytes_done h]
    · simpa [offerBytes_cons h] using ih (feedByte p b)

/-- DECODE stops early only in Done. -/
theorem offerBytes_short {p : ParserRegs} {bs : List Byte} (h : (offerBytes p bs).2 < bs.length) :
    (offerBytes p bs).1.st = .done := by
  induction bs generalizing p with
  | nil => simp at h
  | cons b bs ih =>
    by_cases hd : p.st = .done
    · simpa [offerBytes_done hd] using hd
    · rw [offerBytes_cons hd] at h ⊢
      exact ih (by simpa using h)

/-- Feeding two chunks one after the other: the second is offered to whatever the first leaves. -/
theorem offerBytes_append (p : ParserRegs) (xs ys : List Byte) :
    offerBytes p (xs ++ ys) =
      ((offerBytes (offerBytes p xs).1 ys).1, (offerBytes p xs).2 + (offerBytes (offerBytes p xs).1 ys).2) := by
  induction xs generalizing p with
  | nil => simp
  | cons x xs ih =>
    by_cases h : p.st = .done
    · simp [offerBytes_done h]
    · simp only [List.cons_append, offerBytes_cons h, ih]
      simp [Nat.add_assoc, Nat.add_comm 1]

/-- The buffer only grows within a chunk. -/
theorem offerBytes_pbuf_length (p : ParserRegs) (bs : List Byte) :
    p.pbuf.length ≤ (offerBytes p bs).1.pbuf.length := by
  induction bs generalizing p with
  | nil => simp
  | cons b bs ih =>
    by_cases h : p.st = .done
    · simp [offerBytes_done h]
    · rw [offerBytes_cons h]
      refine le_trans ?_ (ih _)
      rw [feedByte_pbuf]; split <;> simp

theorem State.afterChunk_nil (s : State) (n : Nat) : s.afterChunk [] n = s.returnCount n := rfl

theorem State.afterChunk_held {s : State} (h : s.parser.st = .done) (b : Byte) (bs : List Byte) (n : Nat) :
    s.afterChunk (b :: bs) n = (s.respond .held).returnCount n := by
  simp [State.afterChunk, offerBytes_done h, State.returnCount, State.respond]

theorem State.afterChunk_consumed {s : State} (h : s.parser.st ≠ .done) (b : Byte) (bs : List Byte) (n : Nat) :
    s.afterChunk (b :: bs) n = (s.afterFeed (feedByte s.parser b)).afterChunk bs (n + 1) := by
  simp [State.afterChunk, State.afterFeed, offerBytes_cons h, List.replicate_succ', Nat.add_comm 1, Nat.add_assoc]
  rfl

/-- A FEED answered OK lets the chunk go on. -/
theorem State.feedChunk_of_ok {b : Byte} {s t : State} (h : execFeed b s = .next t) (ho : t.lastOutcome = some .ok)
    (bs : List Byte) (n : Nat) : State.feedChunk (b :: bs) n s = State.feedChunk bs (n + 1) t := by
  simp [State.feedChunk, h, ho]

/-- A FEED answered otherwise ends it. -/
theorem State.feedChunk_of_not_ok {b : Byte} {s t : State} (h : execFeed b s = .next t) (ho : t.lastOutcome ≠ some .ok)
    (bs : List Byte) (n : Nat) : State.feedChunk (b :: bs) n s = .next (t.returnCount n) := by
  simp [State.feedChunk, h, ho]

/-- A chunk that overflows no buffer completes in the admitted configuration. -/
theorem State.feedChunk_admitted {s : State} (bs : List Byte) (n : Nat) (h : s.admitted)
    (hp : (offerBytes s.parser bs).1.pbuf.length ≤ Config.payloadMax) :
    State.feedChunk bs n s = .next (s.afterChunk bs n) := by
  induction bs generalizing s n with
  | nil => rfl
  | cons b bs ih =>
    by_cases hd : s.parser.st = .done
    · rw [State.feedChunk_of_not_ok ((execFeed_held hd b).trans (State.answer_admitted h _)) (by simp [Response.held]),
        State.afterChunk_held hd]
    · rw [offerBytes_cons hd] at hp
      have hb := (offerBytes_pbuf_length (feedByte s.parser b) bs).trans hp
      rw [State.feedChunk_of_ok ((execFeed_consumed hd b).trans (State.completeParser_admitted h (pbufOverflowed_of_le hb) _)) rfl,
        State.afterChunk_consumed hd]
      exact ih (s := s.afterFeed (feedByte s.parser b)) (n + 1) h hp

/-- An instance in another configuration refuses the first FEED of a chunk, and the chunk ends there. -/
theorem State.feedChunk_unsupported {s : State} (h : ¬ s.admitted) (b : Byte) (bs : List Byte) (n : Nat) :
    State.feedChunk (b :: bs) n s = .next ((s.respond (.refused .addrWidthUnsupported)).returnCount n) := by
  by_cases hd : s.parser.st = .done
  · simp [State.feedChunk, execFeed_held hd, State.answer_unsupported h, Response.refused]
  · simp [State.feedChunk, execFeed_consumed hd, State.completeParser_unsupported h, Response.refused]

/-- Everything a chunk can answer with a next state. -/
theorem State.feedChunk_next {bs : List Byte} {n : Nat} {s t : State} (h : State.feedChunk bs n s = .next t) :
    (s.admitted ∧ t = s.afterChunk bs n) ∨
    (¬ s.admitted ∧ bs = [] ∧ t = s.returnCount n) ∨
    (¬ s.admitted ∧ bs ≠ [] ∧ t = (s.respond (.refused .addrWidthUnsupported)).returnCount n) := by
  by_cases ha : s.admitted
  · refine .inl ⟨ha, ?_⟩
    induction bs generalizing s n with
    | nil => cases h; rfl
    | cons b bs ih =>
      by_cases hd : s.parser.st = .done
      · rw [State.afterChunk_held hd]
        rw [State.feedChunk_of_not_ok ((execFeed_held hd b).trans (State.answer_admitted ha _)) (by simp [Response.held])] at h
        cases h; rfl
      · rw [State.afterChunk_consumed hd]
        cases hf : execFeed b s with
        | fault r => simp [State.feedChunk, hf] at h
        | refused r => simp [State.feedChunk, hf] at h
        | next u =>
          have hu := hf
          rw [execFeed_consumed hd] at hu
          obtain ⟨-, -, rfl⟩ | ⟨hn, -⟩ := State.completeParser_next hu
          · rw [State.feedChunk_of_ok hf rfl] at h
            exact ih (s := s.afterFeed (feedByte s.parser b)) h ha
          · exact absurd ha hn
  · cases bs with
    | nil => cases h; exact .inr (.inl ⟨ha, rfl, rfl⟩)
    | cons b bs =>
      rw [State.feedChunk_unsupported ha] at h
      cases h; exact .inr (.inr ⟨ha, by simp, rfl⟩)

end Sys2Proof.Machine
end

