-- ==== Sys2Proof/Laws/PerInstr.lean ====
section
/-!
SUPPORT. Per instruction: the encoding agrees with the opcode table's `match` and `mask`.
-/
namespace Sys2Proof.Laws.TableMatch

/-- The row's `mask` in spec/opcode_table.json. -/
def mask : Instr → Nat
  | .feed _ => 0xFFFF00
  | .reset => 0xFFFFFF
  | .status => 0xFFFFFF
  | .toFrame => 0xFFFFFF
  | .getDir _ => 0xFFFF00
  | .getPrm _ => 0xFFFF00
  | .getFcb _ => 0xFFFF00
  | .getFcv _ => 0xFFFF00
  | .getAcd _ => 0xFFFF00
  | .getDfc _ => 0xFFFF00
  | .getFc _ => 0xFFFF00
  | .view _ => 0xFFFF00
  | .setDir _ _ => 0xFFFE00
  | .setPrm _ _ => 0xFFFE00
  | .setFcb _ _ => 0xFFFE00
  | .setFcv _ _ => 0xFFFE00
  | .setAcd _ _ => 0xFFFE00
  | .setDfc _ _ => 0xFFFE00
  | .setFc _ _ => 0xFFF000
  | .encode _ => 0xFFFFFF
  | .hasPayload _ => 0xFFFFFF
  | .decode _ => 0xFFFF00
  | .frameFixed _ _ _ _ => 0xFF
  | .frameVariable _ _ _ _ => 0xFF

/-- The row's `match` in spec/opcode_table.json. -/
def pattern : Instr → Nat
  | .feed _ => 0x100000
  | .reset => 0x200000
  | .status => 0x300000
  | .toFrame => 0x400000
  | .getDir _ => 0x500000
  | .getPrm _ => 0x510000
  | .getFcb _ => 0x520000
  | .getFcv _ => 0x530000
  | .getAcd _ => 0x540000
  | .getDfc _ => 0x550000
  | .getFc _ => 0x560000
  | .view _ => 0x570000
  | .setDir _ _ => 0x600000
  | .setPrm _ _ => 0x610000
  | .setFcb _ _ => 0x620000
  | .setFcv _ _ => 0x630000
  | .setAcd _ _ => 0x640000
  | .setDfc _ _ => 0x650000
  | .setFc _ _ => 0x660000
  | .encode _ => 0x700000
  | .hasPayload _ => 0x800000
  | .decode _ => 0x100000
  | .frameFixed _ _ _ _ => 0x10
  | .frameVariable _ _ _ _ => 0x68

/-- A word row's word, a wire row's first byte and each FEED word of a DECODE chunk (R69) match the row. -/
def Statement (i : Instr) : Prop :=
  match Sys2Proof.encode i with
  | .command w _ => w &&& BitVec.ofNat 24 (mask i) = BitVec.ofNat 24 (pattern i)
  | .chunk bytes => ∀ b ∈ bytes, cmdWord 0x1 0x0 0 b &&& BitVec.ofNat 24 (mask i) = BitVec.ofNat 24 (pattern i)
  | .wire bytes => bytes.head? = some (BitVec.ofNat 8 (pattern i))

theorem and_allOnes (x : BitVec 4) : x &&& 15#4 = x := by revert x; decide

/-- A word whose mask leaves out `data`. -/
theorem data_masked (op sel : BitVec 4) (d : Byte) : cmdWord op sel 0 d &&& 0xFFFF00#24 = cmdWord op sel 0 0 := by
  rw [show 0xFFFF00#24 = cmdWord 0xF 0xF 0xFF 0 by decide, cmdWord_and]
  simp [and_allOnes]

/-- A word whose mask leaves out `data` and `val[0]`. -/
theorem bit_masked (op sel : BitVec 4) (v : BitVec 1) (d : Byte) :
    cmdWord op sel (v.zeroExtend 8) d &&& 0xFFFE00#24 = cmdWord op sel 0 0 := by
  rw [show 0xFFFE00#24 = cmdWord 0xF 0xF 0xFE 0 by decide, cmdWord_and,
    show v.zeroExtend 8 &&& 0xFE = 0#8 by revert v; decide]
  simp [and_allOnes]

/-- A word whose mask leaves out `data` and `val[3:0]`. -/
theorem nibble_masked (op sel : BitVec 4) (v : BitVec 4) (d : Byte) :
    cmdWord op sel (v.zeroExtend 8) d &&& 0xFFF000#24 = cmdWord op sel 0 0 := by
  rw [show 0xFFF000#24 = cmdWord 0xF 0xF 0xF0 0 by decide, cmdWord_and,
    show v.zeroExtend 8 &&& 0xF0 = 0#8 by revert v; decide]
  simp [and_allOnes]

theorem feed (b : Byte) : Statement (.feed b) :=
  (data_masked 0x1 0x0 b).trans (show cmdWord 0x1 0x0 0 0 = 0x100000#24 by decide)

theorem reset : Statement .reset :=
  show cmdWord 0x2 0x0 0 0 &&& 0xFFFFFF#24 = 0x200000#24 by decide

theorem status : Statement .status :=
  show cmdWord 0x3 0x0 0 0 &&& 0xFFFFFF#24 = 0x300000#24 by decide

theorem toFrame : Statement .toFrame :=
  show cmdWord 0x4 0x0 0 0 &&& 0xFFFFFF#24 = 0x400000#24 by decide

theorem getDir (c : Byte) : Statement (.getDir c) :=
  (data_masked 0x5 0x0 c).trans (show cmdWord 0x5 0x0 0 0 = 0x500000#24 by decide)

theorem getPrm (c : Byte) : Statement (.getPrm c) :=
  (data_masked 0x5 0x1 c).trans (show cmdWord 0x5 0x1 0 0 = 0x510000#24 by decide)

theorem getFcb (c : Byte) : Statement (.getFcb c) :=
  (data_masked 0x5 0x2 c).trans (show cmdWord 0x5 0x2 0 0 = 0x520000#24 by decide)

theorem getFcv (c : Byte) : Statement (.getFcv c) :=
  (data_masked 0x5 0x3 c).trans (show cmdWord 0x5 0x3 0 0 = 0x530000#24 by decide)

theorem getAcd (c : Byte) : Statement (.getAcd c) :=
  (data_masked 0x5 0x4 c).trans (show cmdWord 0x5 0x4 0 0 = 0x540000#24 by decide)

theorem getDfc (c : Byte) : Statement (.getDfc c) :=
  (data_masked 0x5 0x5 c).trans (show cmdWord 0x5 0x5 0 0 = 0x550000#24 by decide)

theorem getFc (c : Byte) : Statement (.getFc c) :=
  (data_masked 0x5 0x6 c).trans (show cmdWord 0x5 0x6 0 0 = 0x560000#24 by decide)

theorem view (c : Byte) : Statement (.view c) :=
  (data_masked 0x5 0x7 c).trans (show cmdWord 0x5 0x7 0 0 = 0x570000#24 by decide)

theorem setDir (c : Byte) (v : BitVec 1) : Statement (.setDir c v) :=
  (bit_masked 0x6 0x0 v c).trans (show cmdWord 0x6 0x0 0 0 = 0x600000#24 by decide)

theorem setPrm (c : Byte) (v : BitVec 1) : Statement (.setPrm c v) :=
  (bit_masked 0x6 0x1 v c).trans (show cmdWord 0x6 0x1 0 0 = 0x610000#24 by decide)

theorem setFcb (c : Byte) (v : BitVec 1) : Statement (.setFcb c v) :=
  (bit_masked 0x6 0x2 v c).trans (show cmdWord 0x6 0x2 0 0 = 0x620000#24 by decide)

theorem setFcv (c : Byte) (v : BitVec 1) : Statement (.setFcv c v) :=
  (bit_masked 0x6 0x3 v c).trans (show cmdWord 0x6 0x3 0 0 = 0x630000#24 by decide)

theorem setAcd (c : Byte) (v : BitVec 1) : Statement (.setAcd c v) :=
  (bit_masked 0x6 0x4 v c).trans (show cmdWord 0x6 0x4 0 0 = 0x640000#24 by decide)

theorem setDfc (c : Byte) (v : BitVec 1) : Statement (.setDfc c v) :=
  (bit_masked 0x6 0x5 v c).trans (show cmdWord 0x6 0x5 0 0 = 0x650000#24 by decide)

theorem setFc (c : Byte) (v : BitVec 4) : Statement (.setFc c v) :=
  (nibble_masked 0x6 0x6 v c).trans (show cmdWord 0x6 0x6 0 0 = 0x660000#24 by decide)

theorem encode (f : Frame) : Statement (.encode f) :=
  show cmdWord 0x7 0x0 0 0 &&& 0xFFFFFF#24 = 0x700000#24 by decide

theorem hasPayload (f : Frame) : Statement (.hasPayload f) :=
  show cmdWord 0x8 0x0 0 0 &&& 0xFFFFFF#24 = 0x800000#24 by decide

theorem decode (chunk : List Byte) : Statement (.decode chunk) := fun b _ => (data_masked 0x1 0x0 b).trans (show cmdWord 0x1 0x0 0 0 = 0x100000#24 by decide)

theorem frameFixed (c a cs e : Byte) : Statement (.frameFixed c a cs e) := rfl

theorem frameVariable (l0 l1 start2 : Byte) (body : List Byte) : Statement (.frameVariable l0 l1 start2 body) := rfl

end Sys2Proof.Laws.TableMatch
end

