-- ==== Sys2Proof/Tests/Slice0.lean ====
section
/-!
SUPPORT. Tests whose expected values come from spec/95_test_vectors.md and the rules' own examples, and a witness for every
statement of Certificates/Slice0/Obligations.lean that has hypotheses.
-/
namespace Sys2Proof.Tests
open Sys2Proof Sys2Proof.Machine

/-! ### Helpers -/

/-- An instance in the admitted configuration with the given registers. -/
def holding (p : ParserRegs) : State := { State.reset with parser := p }

/-- An instance with the given transactions pending. -/
def issuing (rs : List Request) : State := { State.reset with pending := rs }

/-- The last response and the registers after a command, where it gives a next state. -/
def result : Host.Outcome State Fault Refusal → Option (Option Response × ParserRegs)
  | .next t => some (t.responses.head?, t.parser)
  | _ => none

/-- All the responses in order, the registers and the counts after a command, where it gives a next state. -/
def delivered : Host.Outcome State Fault Refusal → Option (List Response × ParserRegs × List Nat)
  | .next t => some (t.observation.1, t.observation.2, t.counts)
  | _ => none

/-- The response alone. -/
def response (i : Instr) (s : State) : Option Response := (result (exec i s)).bind Prod.fst

/-- The registers alone. -/
def regs (i : Instr) (s : State) : Option ParserRegs := (result (exec i s)).map Prod.snd

/-- Source fixture S1. -/
def s1 : List Byte := [0x10, 0x5A, 0x01, 0x5B, 0x16]

/-- Source fixture S6. -/
def s6 : List Byte := [0x68, 0x09, 0x09, 0x68, 0x08, 0x01, 0x46, 0x01, 0x04, 0x01, 0x00, 0x00, 0x00, 0x55, 0x16]

/-- The Frame of S6. -/
def f6 : Frame := { ctrl := 0x08, address := 0x0001, payload := [0x46, 0x01, 0x04, 0x01, 0x00, 0x00, 0x00] }

/-! ### WellFormed: an ill-formed term of its one check is refused, the boundary terms are not -/

theorem test_variable_frame_length_checked :
    (Instr.frameVariable 0x03 0x03 0x68 [0x08, 0x01, 0x46, 0x4F]).wellFormed = false := by decide

theorem test_variable_frame_length_accepted :
    (Instr.frameVariable 0x03 0x03 0x68 [0x08, 0x01, 0x46, 0x4F, 0x16]).wellFormed = true := by decide

theorem test_variable_frame_length_zero : (Instr.frameVariable 0x00 0x00 0x68 [0x16, 0x16]).wellFormed = true := by decide

/-! ### Decoding: one word a row, written out from R50 to R53, R62 and R63 -/

theorem test_decode_feed : decodeTableWord 24 0x100068 = some (.feed 0x68) := by decide
theorem test_decode_reset : decodeTableWord 24 0x200000 = some .reset := by decide
theorem test_decode_status : decodeTableWord 24 0x300000 = some .status := by decide
theorem test_decode_toFrame : decodeTableWord 24 0x400000 = some .toFrame := by decide
theorem test_decode_getDir : decodeTableWord 24 0x500088 = some (.getDir 0x88) := by decide
theorem test_decode_getPrm : decodeTableWord 24 0x510053 = some (.getPrm 0x53) := by decide
theorem test_decode_getFcb : decodeTableWord 24 0x520053 = some (.getFcb 0x53) := by decide
theorem test_decode_getFcv : decodeTableWord 24 0x530053 = some (.getFcv 0x53) := by decide
theorem test_decode_getAcd : decodeTableWord 24 0x540028 = some (.getAcd 0x28) := by decide
theorem test_decode_getDfc : decodeTableWord 24 0x550018 = some (.getDfc 0x18) := by decide
theorem test_decode_getFc : decodeTableWord 24 0x56005A = some (.getFc 0x5A) := by decide
theorem test_decode_view : decodeTableWord 24 0x5700B9 = some (.view 0xB9) := by decide
theorem test_decode_setDir : decodeTableWord 24 0x600188 = some (.setDir 0x88 1) := by decide
theorem test_decode_setPrm : decodeTableWord 24 0x61007A = some (.setPrm 0x7A 0) := by decide
theorem test_decode_setFcb : decodeTableWord 24 0x62015A = some (.setFcb 0x5A 1) := by decide
theorem test_decode_setFcv : decodeTableWord 24 0x63005A = some (.setFcv 0x5A 0) := by decide
theorem test_decode_setAcd : decodeTableWord 24 0x640108 = some (.setAcd 0x08 1) := by decide
theorem test_decode_setDfc : decodeTableWord 24 0x650108 = some (.setDfc 0x08 1) := by decide
theorem test_decode_setFc : decodeTableWord 24 0x660A53 = some (.setFc 0x53 0xA) := by decide
theorem test_decode_encode : decode (.command 0x700000 f6) = .ok (.encode f6) := rfl
theorem test_decode_hasPayload : decode (.command 0x800000 f6) = .ok (.hasPayload f6) := rfl
theorem test_decode_chunk : decode (.chunk [0x10, 0x5A]) = .ok (.decode [0x10, 0x5A]) := rfl
theorem test_decode_frameFixed :
    decodeTableWord 40 0x165B015A10 = some (.frameFixed 0x5A 0x01 0x5B 0x16) := by decide
theorem test_decode_frameVariable :
    decodeTableWord 72 0x164F46010868030368 = some (.frameVariable 0x03 0x03 0x68 [0x08, 0x01, 0x46, 0x4F, 0x16]) := by decide
theorem test_decode_frame_opcode_byte_alone : decodeTableWord 8 0x10 = some (.frameFixed 0 0 0 0) := by decide

/-- The refused words of 95_test_vectors.md, all of them. -/
theorem test_reserved_words_refused :
    ([0x000000, 0x900000, 0xF00000, 0x580053, 0x5F0053, 0x670053, 0x500153, 0x600253, 0x66105A, 0x100110, 0x110010, 0x310000,
      0x200001, 0x400100, 0x700005, 0x800100].all fun w => decodeTableWord 24 w == none) = true := by decide

/-- Bytes that spell no whole frame are an ordinary chunk. -/
theorem test_wire_bytes_without_start : decode (.wire [0x40, 0x5A]) = .ok (.decode [0x40, 0x5A]) := rfl

/-! ### One step each -/

/-- R97: from reset, FEED 0x10. -/
theorem test_feed_start :
    result (exec (.feed 0x10) State.reset) =
      some (some (.okData 0x01), { ParserRegs.reset with kind := .fixed, st := .awaitControl }) := by decide

/-- 95 S6, byte 16: FEED in Done is held. -/
theorem test_feed_held :
    result (exec (.feed 0x10) (holding { ParserRegs.reset with st := .done, cls := .noError })) =
      some (some .held, { ParserRegs.reset with st := .done, cls := .noError }) := by decide

/-- 95 T7: RESET in mid-frame. -/
theorem test_reset_midframe :
    result (exec .reset (holding { ParserRegs.reset with
      st := .awaitRepeatedStart, kind := .variable, len0 := 0x09, len1 := 0x09 })) =
      some (some (.okData 0x00), ParserRegs.reset) := by decide

/-- 95 T1 and T2. -/
theorem test_status_reset : response .status State.reset = some (.okData 0x00) := by decide
theorem test_status_checkError :
    response .status (holding { ParserRegs.reset with st := .done, cls := .checkError }) = some (.okData 0x03) := by decide

/-- 95 T3 and T6. -/
theorem test_toFrame_not_ready : response .toFrame State.reset = some (.faulted .toFrameNotReady) := by decide
theorem test_toFrame_s1 :
    response .toFrame (holding { ParserRegs.reset with st := .done, cls := .noError, ctrl := 0x5A, addr := 0x01, csrx := 0x5B }) =
      some (.okFrame { ctrl := 0x5A, address := 0x0001, payload := [] }) := by decide

/-- R73 to R80's examples and corner cases. -/
theorem test_getDir : response (.getDir 0x88) State.reset = some (.okData 1) := by decide
theorem test_getPrm : response (.getPrm 0x53) State.reset = some (.okData 1) := by decide
theorem test_getFcb : response (.getFcb 0x53) State.reset = some (.okData 0) := by decide
theorem test_getFcb_fcv_clear : response (.getFcb 0x63) State.reset = some .absent := by decide
theorem test_getFcv : response (.getFcv 0x53) State.reset = some (.okData 1) := by decide
theorem test_getFcv_secondary : response (.getFcv 0x08) State.reset = some .absent := by decide
theorem test_getAcd : response (.getAcd 0x28) State.reset = some (.okData 1) := by decide
theorem test_getAcd_primary : response (.getAcd 0x5A) State.reset = some .absent := by decide
theorem test_getDfc : response (.getDfc 0x18) State.reset = some (.okData 1) := by decide
theorem test_getDfc_primary : response (.getDfc 0x53) State.reset = some .absent := by decide
theorem test_getFc : response (.getFc 0x5A) State.reset = some (.okData 10) := by decide
theorem test_view_primary : response (.view 0x53) State.reset = some (.okData 0x05) := by decide
theorem test_view_secondary : response (.view 0xB9) State.reset = some (.okData 0x03) := by decide

/-- R81 to R87's examples and corner cases. -/
theorem test_setDir_clear : response (.setDir 0xFF 0) State.reset = some (.okData 0x7F) := by decide
theorem test_setPrm_keeps_bits : response (.setPrm 0x7A 0) State.reset = some (.okData 0x3A) := by decide
theorem test_setFcb_without_fcv : response (.setFcb 0x43 1) State.reset = some (.okData 0x63) := by decide
theorem test_setFcb_secondary : response (.setFcb 0x08 1) State.reset = some .absent := by decide
theorem test_setFcv : response (.setFcv 0x5A 0) State.reset = some (.okData 0x4A) := by decide
theorem test_setFcv_secondary : response (.setFcv 0x08 1) State.reset = some .absent := by decide
theorem test_setAcd : response (.setAcd 0xB9 0) State.reset = some (.okData 0x99) := by decide
theorem test_setAcd_primary : response (.setAcd 0x53 1) State.reset = some .absent := by decide
theorem test_setDfc : response (.setDfc 0xB9 0) State.reset = some (.okData 0xA9) := by decide
theorem test_setDfc_primary : response (.setDfc 0x5A 0) State.reset = some .absent := by decide
theorem test_setFc : response (.setFc 0x53 0xA) State.reset = some (.okData 0x5A) := by decide
theorem test_setFc_clear : response (.setFc 0xFF 0x0) State.reset = some (.okData 0xF0) := by decide

/-- 95 E4 (the checksum wraps) and E2. -/
theorem test_encode_fixed_wraps :
    response (.encode { ctrl := 0xF3, address := 0x0020, payload := [] }) State.reset =
      some (.okBytes [0x10, 0xF3, 0x20, 0x13, 0x16]) := by decide
theorem test_encode_variable : response (.encode f6) State.reset = some (.okBytes s6) := by decide

/-- 95: HASPAYLOAD of E1 and E2. -/
theorem test_hasPayload_empty :
    response (.hasPayload { ctrl := 0x5A, address := 0x0001, payload := [] }) State.reset = some (.okData 0x00) := by decide
theorem test_hasPayload : response (.hasPayload f6) State.reset = some (.okData 0x01) := by decide

/-- 95 Program 1, step 3 (ten bytes consumed, the eleventh held), and Program 2, step 1. -/
theorem test_decode_to_done :
    delivered (exec (.decode [0x01, 0x46, 0x01, 0x04, 0x01, 0x00, 0x00, 0x00, 0x55, 0x16, 0x10]) (holding { ParserRegs.reset with
      st := .awaitAddress, kind := .variable, len0 := 0x09, len1 := 0x09, ctrl := 0x08 })) =
      some (List.replicate 10 (.okData 0x01) ++ [.held],
        { st := .done, cls := .noError, kind := .variable, ctrl := 0x08, addr := 0x01, len0 := 0x09, len1 := 0x09,
          pbuf := [0x46, 0x01, 0x04, 0x01, 0x00, 0x00, 0x00], csrx := 0x55 }, [10]) := by decide
theorem test_decode_bad_start :
    delivered (exec (.decode [0x40, 0x10, 0x5A, 0x01, 0x5B, 0x16]) State.reset) =
      some ([.okData 0x01, .held], { ParserRegs.reset with st := .done, cls := .badFormat }, [1]) := by decide

/-- 95 S2, and P8: a wrong end byte wins over a wrong checksum. -/
theorem test_frameFixed_checksum :
    (regs (.frameFixed 0x5A 0x01 0x5C 0x16) State.reset).map ParserRegs.cls = some .checkError := by decide
theorem test_frameFixed_end : (regs (.frameFixed 0x5A 0x01 0x00 0x17) State.reset).map ParserRegs.cls = some .badFormat := by
  decide

/-- 95 P6 (no escaping) and P2 (L = 2). -/
theorem test_frameVariable_no_escape :
    regs (.frameVariable 0x03 0x03 0x68 [0x08, 0x01, 0x16, 0x1F, 0x16]) State.reset =
      some { st := .done, cls := .noError, kind := .variable, ctrl := 0x08, addr := 0x01, len0 := 0x03, len1 := 0x03,
             pbuf := [0x16], csrx := 0x1F } := by decide
theorem test_frameVariable_short_length :
    (delivered (exec (.frameVariable 0x02 0x02 0x68 [0x08, 0x01, 0x09, 0x16]) State.reset)).map (fun x => x.2.2) = some [4] := by
  decide

/-- R94, with the examples of R83. -/
theorem test_frameSet : frameSet .fcb { f6 with ctrl := 0x5A } 1 = some { f6 with ctrl := 0x7A } := by decide
theorem test_frameSet_none : frameSet .fcb f6 1 = none := by decide

/-- 95: a reserved word is refused and changes no register; so is STATUS with ADDR_BYTES = 2. -/
theorem test_reserved_word_step :
    result (step (State.reset.withFetchWord 24 0x100110)) = some (some (.refused .illegalCommand), ParserRegs.reset) := by decide
theorem test_addr_bytes_two :
    response .status { State.reset with addrBytes := 2 } = some (.refused .addrWidthUnsupported) := by decide

/-! ### Witnesses: states and operands that meet the hypotheses of each statement, at the boundaries its clauses name -/

/-- AwaitPayload with `n` bytes received of a frame that declares `l`. -/
def payloadState (l : Byte) (n : Nat) : ParserRegs :=
  { st := .awaitPayload, cls := .needMoreData, kind := .variable, ctrl := 0x08, addr := 0x01, len0 := l, len1 := l,
    pbuf := List.replicate n 0x00, csrx := 0x00 }

/-- AwaitRepeatedStart with a length pair. -/
def restartState (l0 l1 : Byte) : ParserRegs :=
  { ParserRegs.reset with st := .awaitRepeatedStart, kind := .variable, len0 := l0, len1 := l1 }

/-- AwaitEnd of S1 with a received checksum. -/
def endState (csrx : Byte) : ParserRegs :=
  { ParserRegs.reset with st := .awaitEnd, ctrl := 0x5A, addr := 0x01, csrx := csrx }

/-- Done with a classification. -/
def doneState (c : Classification) : ParserRegs :=
  { ParserRegs.reset with st := .done, cls := c, ctrl := 0x5A, addr := 0x01, csrx := 0x5B }

/-- A Frame with `n` payload bytes. -/
def frameOf (n : Nat) : Frame := { ctrl := 0x08, address := 0x0001, payload := List.replicate n 0x00 }

theorem payloadState_inv (l : Byte) (n : Nat) (h : n + 2 < l.toNat) : (payloadState l n).Inv := by
  have := l.isLt
  refine ⟨by simp [payloadState], by simp [payloadState], by simp [payloadState], fun _ => rfl, fun _ => ⟨rfl, ?_⟩, fun _ => ?_, by simp [payloadState], ?_⟩
  all_goals simp only [payloadState, Config.lMin, Config.payloadMax, List.length_replicate]; omega

theorem frameOf_length (n : Nat) : (frameOf n).payload.length = n := List.length_replicate ..

theorem witness_StepServesTheDecodedCommand_nothing_pending : State.reset.pending = [] ∧ (∃ t, step State.reset = .next t) := ⟨rfl, _, rfl⟩
theorem witness_StepServesTheDecodedCommand_command :
    (issuing [.command 0x300000 Frame.zero]).pending = .command 0x300000 Frame.zero :: [] ∧
      decode (.command 0x300000 Frame.zero) = .ok .status := ⟨rfl, rfl⟩
theorem witness_StepServesTheDecodedCommand_reserved :
    (issuing [.command 0x670053 Frame.zero]).pending = .command 0x670053 Frame.zero :: [] ∧
      decode (.command 0x670053 Frame.zero) = .error .reservedSel := ⟨rfl, rfl⟩
theorem witness_StepServesTheDecodedCommand_table : decodeTableWord 24 0x660F40 = some (.setFc 0x40 0xF) := by decide

theorem witness_DecodeOfEncodeIsTheCommand :
    (Instr.setFc 0xFF 0xF).wellFormed = true ∧
      (Instr.frameVariable 0x00 0x00 0x00 [0x00, 0x00]).wellFormed = true ∧
      (Instr.frameVariable 0xFF 0xFF 0x68 (List.replicate 257 0x00)).wellFormed = true := by
  refine ⟨rfl, rfl, ?_⟩
  simp only [Instr.wellFormed, List.length_replicate]; decide

theorem witness_ReservedWordsAreExactlyThoseRefused_word :
    (issuing [.command 0x900000 Frame.zero]).pending = .command 0x900000 Frame.zero :: [] ∧
      decode (.command 0x900000 Frame.zero) = .error .reservedOp := ⟨rfl, rfl⟩
theorem witness_ReservedWordsAreExactlyThoseRefused_feed :
    State.reset.admitted ∧ (∃ t, exec (.feed 0xFF) State.reset = .next t ∧ t.responses = [Response.okData 0x01]) ∧
      (holding (doneState .noError)).admitted ∧
      ∃ t, exec (.feed 0xFF) (holding (doneState .noError)) = .next t ∧ t.responses = [Response.held] :=
  ⟨rfl, ⟨_, rfl, rfl⟩, rfl, _, rfl, rfl⟩

theorem witness_PowerOnIsTheResetState : (holding (restartState 0x09 0x08)).admitted := rfl

theorem witness_StepKeepsTheParserInvariant :
    (issuing [.command 0x100010 Frame.zero]).parser.Inv ∧ ∃ t, step (issuing [.command 0x100010 Frame.zero]) = .next t :=
  ⟨by decide, _, rfl⟩
theorem witness_StepKeepsTheParserInvariant_last_payload_byte : (payloadState 0xFF 252).Inv ∧ (payloadState 0x03 0).Inv :=
  ⟨payloadState_inv _ _ (by decide), payloadState_inv _ _ (by decide)⟩
theorem witness_StepCompletesFromTheInvariant : (holding (doneState .checkError)).parser.Inv ∧
    { State.reset with addrBytes := 2 }.parser.Inv := ⟨by decide, by decide⟩

theorem witness_AppendToAFullBufferStops :
    (holding (payloadState 0x03 253)).admitted ∧ (holding (payloadState 0x03 253)).parser.st = .awaitPayload ∧
      Config.payloadMax ≤ (holding (payloadState 0x03 253)).parser.pbuf.length := by
  refine ⟨rfl, rfl, ?_⟩
  simp only [holding, payloadState, List.length_replicate]; decide
theorem witness_AppendToAFullBufferStops_invariant :
    (payloadState 0xFF 252).Inv ∧ (payloadState 0xFF 252).st = .awaitPayload :=
  ⟨payloadState_inv _ _ (by decide), rfl⟩

theorem witness_ClassificationChangesOnlyAtDoneAndReset_every_command :
    (holding (endState 0x5B)).parser.Inv ∧ (∃ t, exec (.decode [0x16, 0x10]) (holding (endState 0x5B)) = .next t ∧
      t.parser.cls ≠ (holding (endState 0x5B)).parser.cls) ∧ (holding (doneState .badFormat)).parser.Inv ∧
      ∃ t, exec .reset (holding (doneState .badFormat)) = .next t ∧ t.parser.cls ≠ (holding (doneState .badFormat)).parser.cls :=
  ⟨by decide, ⟨_, rfl, by decide⟩, by decide, _, rfl, by decide⟩
theorem witness_ClassificationChangesOnlyAtDoneAndReset :
    (holding (endState 0x5B)).admitted ∧ (holding (endState 0x5B)).parser.st ≠ .done ∧
      (∃ t, exec (.feed 0x16) (holding (endState 0x5B)) = .next t ∧ t.parser.st = .done) ∧
      (∃ t, exec (.feed 0x10) State.reset = .next t ∧ t.parser.st ≠ .done) ∧
      ∃ t, exec .reset (holding (endState 0x5B)) = .next t :=
  ⟨rfl, by decide, ⟨_, rfl, by decide⟩, ⟨_, rfl, by decide⟩, _, rfl⟩

theorem witness_FaultResponsesAreExactlyTheTwoCauses :
    State.reset.admitted ∧ State.reset.parser.cls ≠ .noError ∧ (∃ t, exec .toFrame State.reset = .next t) ∧
      (∃ t, exec .status State.reset = .next t) := ⟨rfl, by decide, ⟨_, rfl⟩, _, rfl⟩
theorem witness_EncodeTooLong : 253 < (frameOf 254).payload.length ∧ (frameOf 253).payload.length ≤ 253 ∧
    (frameOf 253).payload ≠ [] ∧ (frameOf 0).payload = [] := by
  simp only [frameOf_length]
  exact ⟨by decide, by decide, fun h => absurd (congrArg List.length h) (by rw [frameOf_length]; decide), rfl⟩
theorem witness_FaultResponsesAreExactlyTheTwoCauses_encode :
    ∃ t, exec (.encode (frameOf 254)) State.reset = .next t ∧ t.responses = [Response.faulted .encodeTooLong] := by
  have h : encodeFrame (frameOf 254) = .error .encodeTooLong := if_pos (by rw [frameOf_length]; decide)
  simp only [exec, execEncode, h]
  exact ⟨_, rfl, rfl⟩

theorem witness_UnsupportedAddressWidthRefusesEveryCommand :
    { State.reset with addrBytes := 2 }.addrBytes ≠ 1 ∧ { State.reset with addrBytes := 0 }.addrBytes ≠ 1 ∧
      (issuing [.command 0x000000 Frame.zero]).pending = .command 0x000000 Frame.zero :: [] ∧
      decodeCommand 0x000000 Frame.zero = .error .reservedOp ∧ fedBytes (.feed 0x10) = none := ⟨by decide, by decide, rfl, rfl, rfl⟩

theorem witness_EveryCommandGivesOneResponse :
    (∃ t, exec (.decode s1) State.reset = .next t) ∧ fedBytes (.decode s1) = some s1 ∧ fedBytes .status = none ∧
      (∃ t, exec .status State.reset = .next t) ∧ (∃ t, exec (.decode s1) { State.reset with addrBytes := 2 } = .next t) ∧
      ∃ t, (issuing [.chunk s1]).runSteps 1 = .next t := ⟨⟨_, rfl⟩, rfl, rfl, ⟨_, rfl⟩, ⟨_, rfl⟩, _, rfl⟩

theorem witness_ResponseFormat :
    State.reset.admitted ∧ (∃ t, exec (.getFcb 0x08) State.reset = .next t ∧ t.responses = [Response.absent]) ∧
      (∃ t, exec (.decode []) State.reset = .next t) := ⟨rfl, ⟨_, rfl, rfl⟩, _, rfl⟩

theorem witness_RunEndsByItsResponses :
    (∃ t, exec .toFrame State.reset = .next t ∧ t.responses.head? = some (.faulted .toFrameNotReady)) ∧
      (holding (doneState .noError)).admitted ∧ (holding (doneState .noError)).parser.st = .done ∧
      (∃ t, exec (.feed 0x10) (holding (doneState .noError)) = .next t) ∧ State.reset.parser.Inv ∧ ∃ t, step State.reset = .next t :=
  ⟨⟨_, rfl, rfl⟩, rfl, rfl, ⟨_, rfl⟩, by decide, _, rfl⟩
theorem witness_RunEndsByItsResponses_chunk :
    State.reset.admitted ∧ fedBytes (.decode [0x40, 0x10]) = some [0x40, 0x10] ∧
      ∃ t, exec (.decode [0x40, 0x10]) State.reset = .next t ∧ t.lastCount = some 1 ∧ 1 < [0x40, 0x10].length :=
  ⟨rfl, rfl, _, rfl, rfl, by decide⟩

theorem witness_SideEffectsByCommand :
    writesParser .toFrame = false ∧ (∃ t, exec .toFrame State.reset = .next t) ∧
      (∃ t, exec (.feed 0x10) (holding (doneState .badFormat)) = .next t) ∧
      (∃ t, exec (.feed 0x10) State.reset = .next t) ∧ (∃ t, exec (.decode [0x10]) State.reset = .next t) ∧
      ∃ t, exec .reset State.reset = .next t ∧ ∃ u, exec .reset t = .next u :=
  ⟨rfl, ⟨_, rfl⟩, ⟨_, rfl⟩, ⟨_, rfl⟩, ⟨_, rfl⟩, _, rfl, _, rfl⟩

theorem witness_ByteRegistersAtResetAreUnobservable :
    let s₁ := State.reset
    let s₂ := holding { ParserRegs.reset with kind := .variable, ctrl := 0x11, addr := 0x22, len0 := 0x33, len1 := 0x44, csrx := 0x55 }
    s₁.addrBytes = s₂.addrBytes ∧ s₁.pending = s₂.pending ∧ s₁.responses = s₂.responses ∧ s₁.counts = s₂.counts ∧ s₁.parser.st = .awaitStart ∧
      s₂.parser.st = .awaitStart ∧ s₁.parser.cls = .needMoreData ∧ s₂.parser.cls = .needMoreData ∧ s₁.parser.pbuf = [] ∧
      s₂.parser.pbuf = [] ∧ s₁.parser ≠ s₂.parser := by decide

theorem witness_LinksDoNotInteract :
    1 < 2 ∧ ∃ y', System.stepLink [issuing [.chunk s1], issuing [.chunk s6]] ⟨1, by decide⟩ = .next y' := ⟨by decide, _, rfl⟩

theorem witness_FeedIsHeldOrConsumed :
    (holding (doneState .noError)).admitted ∧ (holding (doneState .noError)).parser.st = .done ∧
      State.reset.parser.st ≠ .done ∧ (State.reset.parser.st = .awaitPayload → State.reset.parser.pbuf.length < 253) ∧
      ((0x1 : BitVec 4) ≠ 0 ∨ (0x00 : Byte) ≠ 0) := by decide
theorem witness_FeedIsHeldOrConsumed_last_free_byte :
    (holding (payloadState 0xFF 252)).parser.st ≠ .done ∧
      ((holding (payloadState 0xFF 252)).parser.st = .awaitPayload →
        (holding (payloadState 0xFF 252)).parser.pbuf.length < 253) := by
  refine ⟨by decide, fun _ => ?_⟩
  simp only [holding, payloadState, List.length_replicate]; decide

theorem witness_FeedFollowsTheTransitionTable :
    State.reset.admitted ∧ State.reset.parser.Inv ∧ (payloadState 0x04 1).Inv ∧ (payloadState 0x04 0).Inv ∧
      (restartState 0x03 0x03).Inv ∧ (endState 0x5B).Inv ∧ (doneState .noError).Inv :=
  ⟨rfl, by decide, by decide, by decide, by decide, by decide, by decide⟩

theorem witness_FeedInAwaitStart : State.reset.admitted ∧ State.reset.parser.st = .awaitStart := by decide
theorem witness_FeedStoresTheByte :
    (holding { ParserRegs.reset with st := .awaitLength0, kind := .variable }).parser.st = .awaitLength0 ∧
      (holding { ParserRegs.reset with st := .awaitLength1, kind := .variable }).parser.st = .awaitLength1 ∧
      (holding { ParserRegs.reset with st := .awaitControl }).parser.st = .awaitControl ∧
      (holding { ParserRegs.reset with st := .awaitChecksum }).parser.st = .awaitChecksum ∧
      (holding { ParserRegs.reset with st := .awaitChecksum }).admitted := by decide
theorem witness_FeedInAwaitRepeatedStart :
    (holding (restartState 0x03 0x03)).admitted ∧ (holding (restartState 0x03 0x03)).parser.st = .awaitRepeatedStart ∧
      3 ≤ (restartState 0x03 0x03).len0.toNat ∧ (restartState 0x02 0x02).len0.toNat < 3 ∧
      3 ≤ (restartState 0xFF 0xFF).len0.toNat ∧ (restartState 0x09 0x08).len0 ≠ (restartState 0x09 0x08).len1 := by decide
theorem witness_FeedInAwaitAddress :
    let fixed := holding { ParserRegs.reset with st := .awaitAddress, ctrl := 0x5A }
    let var := holding { ParserRegs.reset with st := .awaitAddress, kind := .variable, len0 := 0x03, len1 := 0x03 }
    fixed.admitted ∧ fixed.parser.st = .awaitAddress ∧ fixed.parser.kind = .fixed ∧ fixed.parser.Inv ∧
      var.parser.st = .awaitAddress ∧ var.parser.kind = .variable ∧ var.parser.Inv :=
  ⟨rfl, rfl, rfl, by decide, rfl, rfl, by decide⟩
theorem witness_FeedInAwaitPayload :
    (holding (payloadState 0xFF 252)).admitted ∧ (holding (payloadState 0xFF 252)).parser.st = .awaitPayload ∧
      (holding (payloadState 0xFF 252)).parser.pbuf.length < 253 ∧ (holding (payloadState 0xFF 252)).parser.Inv ∧
      (holding (payloadState 0x03 0)).parser.Inv := by
  refine ⟨rfl, rfl, ?_, payloadState_inv _ _ (by decide), payloadState_inv _ _ (by decide)⟩
  simp only [holding, payloadState, List.length_replicate]; decide
theorem witness_FeedInAwaitEnd :
    (holding (endState 0x5B)).admitted ∧ (holding (endState 0x5B)).parser.st = .awaitEnd ∧
      (0x5A + 0x01 + 0) % 256 = (endState 0x5B).csrx.toNat ∧ (0x5A + 0x01 + 0) % 256 ≠ (endState 0x5C).csrx.toNat ∧
      (0x17 : Byte) ≠ 0x16 := by decide
theorem witness_FeedInDoneIsHeld : (holding (doneState .noError)).admitted ∧ (holding (doneState .noError)).parser.st = .done := by
  decide
theorem witness_TheOneHold :
    (holding (doneState .badFormat)).admitted ∧ (holding (doneState .badFormat)).parser.st = .done ∧
      (∃ t, exec .reset (holding (doneState .badFormat)) = .next t) ∧
      (∃ t, exec .status (holding (doneState .badFormat)) = .next t) ∧ (∃ t, exec (.feed 0x10) State.reset = .next t) ∧
      ∃ t, exec (.decode [0x40, 0x10]) State.reset = .next t ∧ t.parser.st = .done ∧ t.lastCount = some 1 :=
  ⟨rfl, rfl, ⟨_, rfl⟩, ⟨_, rfl⟩, ⟨_, rfl⟩, _, rfl, rfl, rfl⟩
theorem witness_PriorityOfConditions :
    (holding (endState 0x00)).parser.st = .awaitEnd ∧ (∃ t, exec (.feed 0x17) (holding (endState 0x00)) = .next t) ∧
      (holding (restartState 0x02 0x01)).parser.st = .awaitRepeatedStart ∧ (restartState 0x02 0x01).len0.toNat < 3 ∧
      (∃ t, exec (.feed 0x68) (holding (restartState 0x02 0x01)) = .next t) ∧
      (∃ t, exec (.feed 0x99) (holding (restartState 0x02 0x01)) = .next t) ∧
      decodeCommand 0x310000 Frame.zero = .error .nonzeroSel ∧
      ({ issuing [.command 0x310000 Frame.zero] with addrBytes := 2 }).pending = .command 0x310000 Frame.zero :: [] :=
  ⟨rfl, ⟨_, rfl⟩, rfl, by decide, ⟨_, rfl⟩, ⟨_, rfl⟩, rfl, rfl⟩
theorem witness_FeedClassifiesByItsCauses :
    (holding (endState 0x5C)).admitted ∧ (holding (endState 0x5C)).parser.Inv ∧ (holding (endState 0x5C)).parser.st ≠ .done ∧
      (∃ t, exec (.feed 0x16) (holding (endState 0x5C)) = .next t) := ⟨rfl, by decide, by decide, _, rfl⟩
theorem witness_EnteringDoneWritesOnlyClsAndSt :
    (holding (endState 0x5B)).parser.st ≠ .done ∧
      ∃ t, exec (.feed 0x16) (holding (endState 0x5B)) = .next t ∧ t.parser.st = .done ∧ t.parser.cls = .noError :=
  ⟨by decide, _, rfl, rfl, by decide⟩
theorem witness_OnlyResetLeavesDone :
    (holding (doneState .checkError)).parser.st = .done ∧ (∃ t, exec (.decode s1) (holding (doneState .checkError)) = .next t) ∧
      Instr.decode s1 ≠ .reset ∧ (holding (doneState .checkError)).admitted := ⟨rfl, ⟨_, rfl⟩, by decide, rfl⟩
theorem witness_NoEscapingOfMarkerBytes :
    (holding (payloadState 0x03 0)).admitted ∧ (holding (payloadState 0x03 0)).parser.st = .awaitPayload ∧
      (∃ t, exec (.feed 0x16) (holding (payloadState 0x03 0)) = .next t) ∧ State.reset.parser = ParserRegs.reset ∧
      (∃ t, exec (.feed 0x68) (holding (payloadState 0x05 1)) = .next t) ∧
      (∃ t, exec (.feed 0x68) (holding { ParserRegs.reset with st := .awaitAddress }) = .next t) ∧
      ∃ t, exec (.feed 0x10) (holding { restartState 0x03 0x03 with st := .awaitAddress }) = .next t :=
  ⟨rfl, rfl, ⟨_, rfl⟩, rfl, ⟨_, rfl⟩, ⟨_, rfl⟩, _, rfl⟩

theorem witness_DecodeIsItsFeeds :
    State.reset.admitted ∧ State.reset.parser.Inv ∧ (holding (doneState .noError)).parser.Inv ∧
      ∃ t, exec (.decode [0x10, 0x5A]) State.reset = .next t ∧ t.lastCount = some 2 ∧
        ∃ u, exec (.decode [0x01, 0x5B, 0x16, 0x10, 0x49]) t = .next u ∧ u.lastCount = some 3 :=
  ⟨rfl, by decide, by decide, _, rfl, rfl, _, rfl, rfl⟩
theorem witness_StatusReturnsTheClassification : (holding (doneState .badFormat)).admitted := rfl
theorem witness_ToFrameDeliversTheParsedFrame :
    State.reset.admitted ∧ State.reset.parser.cls ≠ .noError ∧ (doneState .noError).cls = .noError ∧
      (doneState .noError).Inv ∧ (doneState .noError).kind = .fixed ∧
      ({ payloadState 0x03 1 with st := .done, cls := .noError } : ParserRegs).Inv ∧
      ({ payloadState 0x03 1 with st := .done, cls := .noError } : ParserRegs).kind = .variable ∧
      (∃ t, exec .toFrame State.reset = .next t ∧ ∃ u, t.runSteps 1 = .next u) :=
  ⟨rfl, by decide, rfl, by decide, rfl, by decide, rfl, _, rfl, _, rfl⟩
theorem witness_ResetClearsEveryRegister : (holding (payloadState 0x05 2)).admitted := rfl

theorem witness_DecodeOfEncodedFrameGivesTheFrame :
    f6.payload.length ≤ 253 ∧ State.reset.admitted ∧ State.reset.parser = ParserRegs.reset ∧ (frameOf 253).payload.length ≤ 253 := by
  refine ⟨by decide, rfl, rfl, ?_⟩
  rw [frameOf_length]
theorem witness_StrictPrefixesNeedMoreData :
    State.reset.answers (.encode (frameOf 0)) (.okBytes [0x10, 0x08, 0x01, 0x09, 0x16]) ∧ 4 < [0x10, 0x08, 0x01, 0x09, 0x16].length ∧
      State.reset.answers (.encode f6) (.okBytes s6) ∧
      ∃ t, exec (.feed 0x40) State.reset = .next t ∧ State.reset.parser.st ≠ .done ∧ t.parser.st = .done :=
  ⟨rfl, by decide, rfl, _, rfl, by decide, rfl⟩
theorem witness_ChecksumByteDecidesCheckError :
    State.reset.admitted ∧ State.reset.parser = ParserRegs.reset ∧ State.reset.answers (.encode f6) (.okBytes s6) := ⟨rfl, rfl, rfl⟩
theorem witness_WrongStartOrEndIsBadFormat :
    (0x16 : Byte) ≠ 0x10 ∧ (0x16 : Byte) ≠ 0x68 ∧ (0x17 : Byte) ≠ 0x16 ∧ State.reset.answers (.encode f6) (.okBytes s6) :=
  ⟨by decide, by decide, by decide, rfl⟩
theorem witness_ConsumedCountsByOutcome :
    State.reset.admitted ∧ State.reset.parser = ParserRegs.reset ∧ s1[0]? = some 0x10 ∧ 5 ≤ s1.length ∧ ¬ 5 ≤ (s1.take 4).length ∧
      s6[0]? = some 0x68 ∧ s6[1]? = some 0x09 ∧ s6[2]? = some 0x09 ∧ s6[3]? = some 0x68 ∧ (0x09 : Byte).toNat + 6 ≤ s6.length ∧
      ¬ (0x09 : Byte).toNat + 6 ≤ (s6.take 14).length ∧ (0x02 : Byte).toNat < 3 ∧ (s6.take 3).length < 4 := by decide

theorem witness_WireFramesAreDecodedByFeed :
    State.reset.admitted ∧ State.reset.parser.Inv ∧ (holding (doneState .noError)).parser.Inv := ⟨rfl, by decide, by decide⟩
theorem witness_FixedWireFrameFromReset : State.reset.admitted ∧ State.reset.parser = ParserRegs.reset := by decide
theorem witness_VariableWireFrameFromReset :
    State.reset.admitted ∧ State.reset.parser = ParserRegs.reset ∧ (0x02 : Byte).toNat < 3 ∧ 3 ≤ (0x03 : Byte).toNat ∧
      ([0x46] : List Byte).length = (0x03 : Byte).toNat - 2 := by decide
theorem witness_VariableWireFrameFromReset_longest :
    3 ≤ (0xFF : Byte).toNat ∧ (List.replicate 253 0x00 : List Byte).length = (0xFF : Byte).toNat - 2 := by
  rw [List.length_replicate]; decide

theorem witness_GuardedReadsAndWrites :
    State.reset.admitted ∧ (0x53 : Byte).getLsbD 6 = true ∧ (0x53 : Byte).getLsbD 4 = true ∧
      ¬ ((0x63 : Byte).getLsbD 6 = true ∧ (0x63 : Byte).getLsbD 4 = true) ∧ (0x08 : Byte).getLsbD 6 = false := by decide
theorem witness_RefusedReadAndWriteValues :
    (0x01 : Byte) ≠ 0 ∧ ((0 : BitVec 4) ≠ 6 ∧ 2 ≤ (0x02 : Byte).toNat) ∧ 16 ≤ (0x10 : Byte).toNat := by decide
theorem witness_SetChangesOnlyItsField :
    State.reset.admitted ∧ (∃ t, exec (setInstr .fcb 0x5A 1#1) State.reset = .next t) ∧
      ∃ t, exec (setInstr .fcb 0x08 1#1) State.reset = .next t := ⟨rfl, ⟨_, rfl⟩, _, rfl⟩
theorem witness_MultiplexerLaws :
    State.reset.answers (setInstr .fcv 0x43 1#1) (.okData 0x53) ∧ State.reset.answers (setInstr .fcb 0x43 1#1) (.okData 0x63) ∧
      (0x43 : Byte).getLsbD 4 = false ∧ State.reset.answers (getInstr .fc 0x5A) (.okData 0x0A) ∧
      State.reset.answers (setInstr .dir 0x08 1#1) (.okData 0x88) ∧ State.reset.answers (setInstr .dir 0x88 0#1) (.okData 0x08) ∧
      State.reset.answers (setInstr .dir 0x08 0#1) (.okData 0x08) :=
  ⟨rfl, rfl, by decide, rfl, rfl, rfl, rfl⟩
theorem witness_MultiplexerLaws_commuting :
    CtrlField.dir.mask &&& CtrlField.fc.mask = 0 ∧ State.reset.answers (setInstr .dir 0x53 1#1) (.okData 0xD3) ∧
      State.reset.answers (setInstr .fc 0xD3 0xA#4) (.okData 0xDA) ∧ State.reset.answers (setInstr .fc 0x53 0xA#4) (.okData 0x5A) ∧
      State.reset.answers (setInstr .dir 0x5A 1#1) (.okData 0xDA) :=
  ⟨by decide, rfl, rfl, rfl, rfl⟩
theorem witness_MultiplexerLaws_view :
    State.reset.answers (.view 0x53) (.okData 0x05) ∧ State.reset.answers (.getDir 0x53) (.okData 0x00) ∧
      State.reset.answers (.getFc 0x53) (.okData 0x03) := ⟨rfl, rfl, rfl⟩

theorem witness_HasPayloadTestsEmptiness :
    State.reset.admitted ∧ f6.payload ≠ [] ∧ Frame.zero.payload = [] ∧
      ((0 : BitVec 4) ≠ 0 ∨ (0x01 : Byte) ≠ 0 ∨ (0x00 : Byte) ≠ 0) := by decide
theorem witness_FrameKindFollowsThePayload :
    State.reset.admitted ∧ State.reset.parser = ParserRegs.reset ∧ f6.payload.length ≤ 253 ∧ frameKind f6 = .variable ∧
      frameKind Frame.zero = .fixed ∧ ({ f6 with ctrl := 0x5A } : Frame).payload = f6.payload := by decide
theorem witness_EncodeLaws :
    State.reset.admitted ∧ f6.payload.length ≤ 253 ∧ f6.payload ≠ [] ∧
      ({ f6 with address := 0x1201 } : Frame).address.extractLsb' 0 8 = f6.address.extractLsb' 0 8 := by decide

end Sys2Proof.Tests
end

section
/-!
SUPPORT. What a command, a step and a run of steps leave as they were, said once: every command either answers, or completes with
new registers, or is a chunk of FEEDs; so the responses and counts already given stand.
-/
namespace Sys2Proof.Machine

/-! ### The three forms of a command -/

/-- A command that may not write the parser's registers (R41) only answers. -/
theorem exec_answer {i : Instr} (hi : writesParser i = false) (s : State) : ∃ r, exec i s = s.answer r := by
  cases i with
  | feed | reset | decode | frameFixed | frameVariable => cases hi
  | toFrame =>
    by_cases hc : s.parser.cls = .noError
    · exact ⟨_, execToFrame_ready hc⟩
    · exact ⟨_, execToFrame_notReady hc⟩
  | encode f => simp only [exec, execEncode]; split <;> exact ⟨_, rfl⟩
  | _ => exact ⟨_, rfl⟩

/-- DECODE and the wire frames are the FEEDs of their bytes (R69). -/
theorem exec_feedChunk {i : Instr} {bs : List Byte} (hi : fedBytes i = some bs) (s : State) :
    exec i s = State.feedChunk bs 0 s := by
  cases i with
  | decode | frameFixed | frameVariable => cases hi; rfl
  | _ => cases hi

/-! ### What a command's next state is -/

theorem State.answer_next {s t : State} {r : Response} (h : s.answer r = .next t) : ∃ q, t = s.respond q := by
  obtain ⟨q, hq, -⟩ := State.answer_cases s r
  exact ⟨q, Host.Outcome.next.inj (h.symm.trans hq)⟩

theorem State.completeParser_next_respond {s t : State} {p : ParserRegs} {r : Response}
    (h : s.completeParser p r = .next t) : ∃ p' q, t = State.respond { s with parser := p' } q := by
  obtain ⟨-, -, ht⟩ | ⟨-, ht⟩ := State.completeParser_next h
  · exact ⟨p, r, ht⟩
  · exact ⟨s.parser, _, ht⟩

/-- A command that is no chunk changes at most the registers, and gives one response. -/
theorem exec_next_respond {i : Instr} {s t : State} (hi : fedBytes i = none) (h : exec i s = .next t) :
    ∃ p r, t = State.respond { s with parser := p } r := by
  cases hw : writesParser i with
  | false =>
    obtain ⟨r, hr⟩ := exec_answer hw s
    obtain ⟨q, ht⟩ := State.answer_next (hr.symm.trans h)
    exact ⟨s.parser, q, ht⟩
  | true =>
    cases i with
    | feed b =>
      by_cases hd : s.parser.st = .done
      · obtain ⟨q, ht⟩ := State.answer_next ((execFeed_held hd b).symm.trans h)
        exact ⟨s.parser, q, ht⟩
      · exact State.completeParser_next_respond ((execFeed_consumed hd b).symm.trans h)
    | reset => exact State.completeParser_next_respond h
    | decode | frameFixed | frameVariable => cases hi
    | _ => cases hw

/-- One response for each byte accepted, and one more where a byte was left. -/
theorem State.afterChunk_responses (s : State) (bs : List Byte) (n : Nat) :
    ∃ rs, (s.afterChunk bs n).responses = rs ++ s.responses ∧
      rs.length = min ((offerBytes s.parser bs).2 + 1) bs.length := by
  refine ⟨_, rfl, ?_⟩
  have hle := offerBytes_count_le s.parser bs
  split <;> simp only [List.length_append, List.length_replicate, List.length_cons, List.length_nil] <;> omega

/-- A chunk leaves the configuration and the pending commands, returns one count and gives one response for each FEED it issues;
another ADDR_BYTES lets it consume nothing. -/
theorem State.feedChunk_next_frame {bs : List Byte} {s t : State} (h : State.feedChunk bs 0 s = .next t) :
    t.addrBytes = s.addrBytes ∧ t.pending = s.pending ∧
    ∃ n rs, t.counts = n :: s.counts ∧ t.responses = rs ++ s.responses ∧
      n ≤ bs.length ∧ rs.length = min (n + 1) bs.length ∧ (¬ s.admitted → n = 0) := by
  obtain ⟨ha, rfl⟩ | ⟨-, rfl, rfl⟩ | ⟨-, hbs, rfl⟩ := State.feedChunk_next h
  · obtain ⟨rs, hrs, hlen⟩ := s.afterChunk_responses bs 0
    exact ⟨rfl, rfl, (offerBytes s.parser bs).2, rs, by simp, hrs, offerBytes_count_le _ _, hlen, absurd ha⟩
  · exact ⟨rfl, rfl, 0, [], rfl, rfl, Nat.zero_le _, rfl, fun _ => rfl⟩
  · have hpos := List.length_pos_of_ne_nil hbs
    exact ⟨rfl, rfl, 0, [.refused .addrWidthUnsupported], rfl, rfl, Nat.zero_le _,
      (Nat.min_eq_left hpos).symm, fun _ => rfl⟩

/-! ### Runs -/

/-- Everything a step can do: keep the state where nothing is pending, run the command it decoded, or refuse a reserved word. -/
theorem step_next {s t : State} (h : step s = .next t) :
    (s.pending = [] ∧ t = s) ∨
    ∃ q rest, s.pending = q :: rest ∧
      ((∃ i, decode q = .ok i ∧ exec i { s with pending := rest } = .next t) ∨
       (∃ e, decode q = .error e ∧ t = State.respond { s with pending := rest } (.refused .illegalCommand))) := by
  unfold step at h
  cases hp : s.pending with
  | nil => simp only [hp] at h; cases h; exact .inl ⟨rfl, rfl⟩
  | cons q rest =>
    refine .inr ⟨q, rest, rfl, ?_⟩
    cases hd : decode q with
    | ok i => simp only [hp, hd] at h; exact .inl ⟨i, rfl, h⟩
    | error e => simp only [hp, hd] at h; cases h; exact .inr ⟨e, rfl, rfl⟩

/-- What every step keeps, a run of steps keeps. -/
theorem State.runSteps_preserves {P : State → Prop} (hstep : ∀ s t, P s → step s = .next t → P t) {n : Nat} {s t : State}
    (hs : P s) (h : s.runSteps n = .next t) : P t := by
  induction n generalizing s with
  | zero => cases h; exact hs
  | succ n ih =>
    cases hst : step s with
    | next u =>
      simp only [State.runSteps, hst] at h
      exact ih (hstep s u hs hst) h
    | fault r => simp [State.runSteps, hst] at h
    | refused r => simp [State.runSteps, hst] at h

/-- `t` has the configuration of `s`, serves the same pending commands from some later one on, and holds every count and response
that `s` holds. -/
structure State.Extends (s t : State) : Prop where
  addrBytes : t.addrBytes = s.addrBytes
  pending : t.pending <:+ s.pending
  counts : s.counts <:+ t.counts
  responses : s.responses <:+ t.responses

theorem State.Extends.refl (s : State) : s.Extends s :=
  ⟨rfl, List.suffix_rfl, List.suffix_rfl, List.suffix_rfl⟩

theorem State.Extends.trans {s t u : State} (h₁ : s.Extends t) (h₂ : t.Extends u) : s.Extends u where
  addrBytes := h₂.addrBytes.trans h₁.addrBytes
  pending := h₂.pending.trans h₁.pending
  counts := h₁.counts.trans h₂.counts
  responses := h₁.responses.trans h₂.responses

theorem State.extends_respond (s : State) (p : ParserRegs) (r : Response) :
    s.Extends (State.respond { s with parser := p } r) :=
  ⟨rfl, List.suffix_rfl, List.suffix_rfl, List.suffix_cons _ _⟩

theorem State.extends_pop {s : State} {q : Request} {rest : List Request} (hp : s.pending = q :: rest) :
    s.Extends { s with pending := rest } :=
  ⟨rfl, hp ▸ List.suffix_cons q rest, List.suffix_rfl, List.suffix_rfl⟩

theorem exec_extends {i : Instr} {s t : State} (h : exec i s = .next t) : s.Extends t := by
  cases hi : fedBytes i with
  | none =>
    obtain ⟨p, r, rfl⟩ := exec_next_respond hi h
    exact s.extends_respond p r
  | some bs =>
    rw [exec_feedChunk hi] at h
    obtain ⟨haddr, hpend, n, rs, hcounts, hresp, -⟩ := State.feedChunk_next_frame h
    exact ⟨haddr, hpend ▸ List.suffix_rfl, hcounts ▸ List.suffix_cons _ _, hresp ▸ List.suffix_append _ _⟩

theorem step_extends {s t : State} (h : step s = .next t) : s.Extends t := by
  obtain ⟨-, rfl⟩ | ⟨q, rest, hp, ⟨i, -, hi⟩ | ⟨e, -, rfl⟩⟩ := step_next h
  · exact .refl _
  · exact (State.extends_pop hp).trans (exec_extends hi)
  · exact (State.extends_pop hp).trans (State.extends_respond _ s.parser _)

theorem State.runSteps_extends {n : Nat} {s t : State} (h : s.runSteps n = .next t) : s.Extends t :=
  State.runSteps_preserves (P := s.Extends) (fun _ _ hs hst => hs.trans (step_extends hst)) (.refl s) h

/-! ### The obligation -/

/-- Settles O13: the frame of each of the two forms of command, and `Extends` along a run. -/
theorem everyCommandGivesOneResponse : Obligations.EveryCommandGivesOneResponse := by
  refine ⟨fun i s t h => ?_, fun n s t h => ?_⟩
  · cases hi : fedBytes i with
    | none =>
      obtain ⟨p, r, rfl⟩ := exec_next_respond hi h
      exact ⟨rfl, rfl, fun _ => ⟨rfl, r, rfl⟩, nofun⟩
    | some bs =>
      rw [exec_feedChunk hi] at h
      obtain ⟨haddr, hpend, hchunk⟩ := State.feedChunk_next_frame h
      exact ⟨haddr, hpend, nofun, fun _ hbs => Option.some.inj hbs ▸ hchunk⟩
  · obtain ⟨haddr, hpend, ⟨ns, hcounts⟩, ⟨rs, hresp⟩⟩ := State.runSteps_extends h
    exact ⟨haddr, ⟨_, List.suffix_iff_eq_drop.mp hpend⟩, ⟨ns, hcounts.symm⟩, rs, hresp.symm⟩

end Sys2Proof.Machine
end

section
/-!
SUPPORT. The parser's invariant: what it says in each parse state, that every FEED arm, every command and every step keeps it,
and that from it every command completes.
-/
namespace Sys2Proof.Machine

/-! ### What the invariant says, state by state -/

/-- On the variable path the length pair has passed R101's checks; on the fixed path nothing is asked of it. -/
def ParserRegs.LengthsOk (p : ParserRegs) : Prop :=
  p.kind = .variable → p.len0 = p.len1 ∧ Config.lMin ≤ p.len0.toNat

/-- `pbuf` holds the frame's whole payload: none on the fixed path, `len0 − 2` bytes on the variable path (R21). -/
def ParserRegs.PayloadComplete (p : ParserRegs) : Prop :=
  (p.kind = .fixed → p.pbuf = []) ∧ (p.kind = .variable → p.pbuf.length + 2 = p.len0.toNat)

theorem Kind.fixed_or_variable (k : Kind) : k = .fixed ∨ k = .variable := by
  cases k
  · exact .inl rfl
  · exact .inr rfl

/-- `len0` is one byte, so a whole payload fits the buffer. -/
theorem ParserRegs.PayloadComplete.length_le {p : ParserRegs} (h : p.PayloadComplete) :
    p.pbuf.length ≤ Config.payloadMax := by
  obtain ⟨hfixed, hvar⟩ := h
  obtain hk | hk := p.kind.fixed_or_variable
  · simp [hfixed hk]
  · have hfill := hvar hk
    have hbyte := p.len0.isLt
    simp only [Config.payloadMax]
    omega

theorem ParserRegs.inv_iff_of_awaitStart {p : ParserRegs} (hs : p.st = .awaitStart) :
    p.Inv ↔ p.cls = .needMoreData ∧ p.pbuf = [] := by
  constructor
  · rintro ⟨hcls, -, hempty, -⟩
    exact ⟨hcls.mpr (by simp [hs]), hempty (.inl hs)⟩
  · rintro ⟨hc, hb⟩
    simp [ParserRegs.Inv, hs, hc, hb]

theorem ParserRegs.inv_iff_of_lengths {p : ParserRegs}
    (hs : p.st = .awaitLength0 ∨ p.st = .awaitLength1 ∨ p.st = .awaitRepeatedStart) :
    p.Inv ↔ p.cls = .needMoreData ∧ p.pbuf = [] ∧ p.kind = .variable := by
  constructor
  · rintro ⟨hcls, -, hempty, hvar, -⟩
    exact ⟨hcls.mpr (by rcases hs with hs | hs | hs <;> simp [hs]), hempty (by tauto), hvar (by tauto)⟩
  · rintro ⟨hc, hb, hk⟩
    rcases hs with hs | hs | hs <;> simp [ParserRegs.Inv, hs, hc, hb, hk]

theorem ParserRegs.inv_iff_of_header {p : ParserRegs} (hs : p.st = .awaitControl ∨ p.st = .awaitAddress) :
    p.Inv ↔ p.cls = .needMoreData ∧ p.pbuf = [] ∧ p.LengthsOk := by
  constructor
  · rintro ⟨hcls, -, hempty, -, hlen, -⟩
    exact ⟨hcls.mpr (by rcases hs with hs | hs <;> simp [hs]), hempty (by tauto), fun hk => hlen ⟨hk, by tauto⟩⟩
  · rintro ⟨hc, hb, hl⟩
    refine ⟨?_, fun _ => hb, fun _ => hb, ?_, fun h => hl h.1, ?_, ?_, by simp [hb]⟩ <;>
      rcases hs with hs | hs <;> simp [hs, hc]

theorem ParserRegs.inv_iff_of_awaitPayload {p : ParserRegs} (hs : p.st = .awaitPayload) :
    p.Inv ↔ p.cls = .needMoreData ∧ p.kind = .variable ∧ p.LengthsOk ∧ p.pbuf.length + 2 < p.len0.toNat := by
  constructor
  · rintro ⟨hcls, -, -, hvar, hlen, hroom, -⟩
    exact ⟨hcls.mpr (by simp [hs]), hvar (by simp [hs]), fun hk => hlen ⟨hk, by simp [hs]⟩, hroom hs⟩
  · rintro ⟨hc, hk, hl, hroom⟩
    have hmax : p.pbuf.length ≤ Config.payloadMax := by
      have hbyte := p.len0.isLt
      simp only [Config.payloadMax]
      omega
    exact ⟨by simp [hs, hc], by simp [hk], by simp [hs], fun _ => hk, fun _ => hl hk, fun _ => hroom,
      by simp [hs, hc], hmax⟩

theorem ParserRegs.inv_iff_of_trailer {p : ParserRegs} (hs : p.st = .awaitChecksum ∨ p.st = .awaitEnd) :
    p.Inv ↔ p.cls = .needMoreData ∧ p.LengthsOk ∧ p.PayloadComplete := by
  constructor
  · rintro ⟨hcls, hfixed, -, -, hlen, -, hfull, -⟩
    exact ⟨hcls.mpr (by rcases hs with hs | hs <;> simp [hs]), fun hk => hlen ⟨hk, by tauto⟩, hfixed,
      fun hk => hfull ⟨hk, by tauto⟩⟩
  · rintro ⟨hc, hl, hfixed, hvar⟩
    have hmax := PayloadComplete.length_le ⟨hfixed, hvar⟩
    refine ⟨?_, hfixed, ?_, ?_, fun h => hl h.1, ?_, fun h => hvar h.1, hmax⟩ <;>
      rcases hs with hs | hs <;> simp [hs, hc]

theorem ParserRegs.inv_iff_of_done {p : ParserRegs} (hs : p.st = .done) :
    p.Inv ↔ p.cls ≠ .needMoreData ∧ (p.kind = .fixed → p.pbuf = []) ∧ p.pbuf.length ≤ Config.payloadMax ∧
      (p.cls = .noError ∨ p.cls = .checkError → p.LengthsOk ∧ p.PayloadComplete) := by
  constructor
  · rintro ⟨hcls, hfixed, -, -, hlen, -, hfull, hmax⟩
    exact ⟨fun hc => hcls.mp hc hs, hfixed, hmax,
      fun hc => ⟨fun hk => hlen ⟨hk, by tauto⟩, hfixed, fun hk => hfull ⟨hk, by tauto⟩⟩⟩
  · rintro ⟨hc, hfixed, hmax, hwhole⟩
    refine ⟨by simp [hs, hc], hfixed, by simp [hs], by simp [hs], ?_, by simp [hs], ?_, hmax⟩ <;>
      rintro ⟨hk, hor⟩ <;> obtain ⟨hl, hf⟩ := hwhole (by simpa [hs] using hor)
    · exact hl hk
    · exact hf.2 hk

/-! ### Every byte keeps it -/

theorem ParserRegs.inv_reset : ParserRegs.reset.Inv := (inv_iff_of_awaitStart rfl).mpr ⟨rfl, rfl⟩

/-- BadFormat asks nothing of the length pair or of the fill. -/
theorem ParserRegs.Inv.enterDone_badFormat {p : ParserRegs} (h : p.Inv) : (p.enterDone .badFormat).Inv := by
  obtain ⟨-, hfixed, -, -, -, -, -, hmax⟩ := h
  exact (inv_iff_of_done rfl).mpr ⟨nofun, hfixed, hmax, nofun⟩

theorem feedAwaitStart_inv {p : ParserRegs} (h : p.Inv) (hs : p.st = .awaitStart) (b : Byte) :
    (feedAwaitStart p b).Inv := by
  obtain ⟨hc, hb⟩ := (ParserRegs.inv_iff_of_awaitStart hs).mp h
  unfold feedAwaitStart
  split_ifs
  · exact (ParserRegs.inv_iff_of_header (.inl rfl)).mpr ⟨hc, hb, nofun⟩
  · exact (ParserRegs.inv_iff_of_lengths (.inl rfl)).mpr ⟨hc, hb, rfl⟩
  · exact h.enterDone_badFormat

theorem feedAwaitLength0_inv {p : ParserRegs} (h : p.Inv) (hs : p.st = .awaitLength0) (b : Byte) :
    (feedAwaitLength0 p b).Inv :=
  (ParserRegs.inv_iff_of_lengths (.inr (.inl rfl))).mpr ((ParserRegs.inv_iff_of_lengths (.inl hs)).mp h)

theorem feedAwaitLength1_inv {p : ParserRegs} (h : p.Inv) (hs : p.st = .awaitLength1) (b : Byte) :
    (feedAwaitLength1 p b).Inv :=
  (ParserRegs.inv_iff_of_lengths (.inr (.inr rfl))).mpr ((ParserRegs.inv_iff_of_lengths (.inr (.inl hs))).mp h)

theorem feedAwaitRepeatedStart_inv {p : ParserRegs} (h : p.Inv) (hs : p.st = .awaitRepeatedStart) (b : Byte) :
    (feedAwaitRepeatedStart p b).Inv := by
  obtain ⟨hc, hb, -⟩ := (ParserRegs.inv_iff_of_lengths (.inr (.inr hs))).mp h
  unfold feedAwaitRepeatedStart
  split_ifs with hok
  · obtain ⟨-, hlen⟩ := (repeatedStartOk_iff p b).mp hok
    exact (ParserRegs.inv_iff_of_header (.inl rfl)).mpr ⟨hc, hb, fun _ => hlen⟩
  · exact h.enterDone_badFormat

theorem feedAwaitControl_inv {p : ParserRegs} (h : p.Inv) (hs : p.st = .awaitControl) (b : Byte) :
    (feedAwaitControl p b).Inv :=
  (ParserRegs.inv_iff_of_header (.inr rfl)).mpr ((ParserRegs.inv_iff_of_header (.inl hs)).mp h)

theorem feedAwaitAddress_fixed {p : ParserRegs} (hk : p.kind = .fixed) (b : Byte) :
    feedAwaitAddress p b = { p with addr := b, st := .awaitChecksum } := by
  simp [feedAwaitAddress, hk]

theorem feedAwaitAddress_variable {p : ParserRegs} (hk : p.kind = .variable) (b : Byte) :
    feedAwaitAddress p b = { p with addr := b, st := .awaitPayload } := by
  simp [feedAwaitAddress, hk]

/-- The path decides what is awaited after the address: `len0 ≥ 3` leaves a payload byte to come. -/
theorem feedAwaitAddress_inv {p : ParserRegs} (h : p.Inv) (hs : p.st = .awaitAddress) (b : Byte) :
    (feedAwaitAddress p b).Inv := by
  obtain ⟨hc, hb, hl⟩ := (ParserRegs.inv_iff_of_header (.inr hs)).mp h
  obtain hk | hk := p.kind.fixed_or_variable
  · rw [feedAwaitAddress_fixed hk]
    exact (ParserRegs.inv_iff_of_trailer (.inl rfl)).mpr ⟨hc, hl, fun _ => hb, by simp [hk]⟩
  · have hroom : p.pbuf.length + 2 < p.len0.toNat := by rw [hb]; exact (hl hk).2
    rw [feedAwaitAddress_variable hk]
    exact (ParserRegs.inv_iff_of_awaitPayload rfl).mpr ⟨hc, hk, hl, hroom⟩

theorem feedAwaitPayload_last {p : ParserRegs} (h : p.pbuf.length + 3 = p.len0.toNat) (b : Byte) :
    feedAwaitPayload p b = { p.pbufAppend b with st := .awaitChecksum } := by
  simp [feedAwaitPayload, h]

theorem feedAwaitPayload_more {p : ParserRegs} (h : p.pbuf.length + 3 ≠ p.len0.toNat) (b : Byte) :
    feedAwaitPayload p b = p.pbufAppend b := by
  simp [feedAwaitPayload, h]

/-- The append that reaches `len0 − 2` bytes completes the payload; any other leaves the fill below it. -/
theorem feedAwaitPayload_inv {p : ParserRegs} (h : p.Inv) (hs : p.st = .awaitPayload) (b : Byte) :
    (feedAwaitPayload p b).Inv := by
  obtain ⟨hc, hk, hl, hroom⟩ := (ParserRegs.inv_iff_of_awaitPayload hs).mp h
  by_cases hlast : p.pbuf.length + 3 = p.len0.toNat
  · rw [feedAwaitPayload_last hlast]
    exact (ParserRegs.inv_iff_of_trailer (.inl rfl)).mpr ⟨hc, hl, by simp [hk], fun _ => by simpa using hlast⟩
  · rw [feedAwaitPayload_more hlast]
    have hroom' : (p.pbuf ++ [b]).length + 2 < p.len0.toNat := by
      rw [List.length_append, List.length_singleton]
      omega
    exact (ParserRegs.inv_iff_of_awaitPayload (p := p.pbufAppend b) hs).mpr ⟨hc, hk, hl, hroom'⟩

theorem feedAwaitChecksum_inv {p : ParserRegs} (h : p.Inv) (hs : p.st = .awaitChecksum) (b : Byte) :
    (feedAwaitChecksum p b).Inv :=
  (ParserRegs.inv_iff_of_trailer (.inr rfl)).mpr ((ParserRegs.inv_iff_of_trailer (.inl hs)).mp h)

/-- The end byte decides for a terminal classification (R106). -/
theorem endClass_ne_needMoreData (p : ParserRegs) (b : Byte) : endClass p b ≠ .needMoreData := by
  unfold endClass
  split_ifs <;> nofun

theorem feedAwaitEnd_inv {p : ParserRegs} (h : p.Inv) (hs : p.st = .awaitEnd) (b : Byte) :
    (feedAwaitEnd p b).Inv := by
  obtain ⟨-, hl, hf⟩ := (ParserRegs.inv_iff_of_trailer (.inr hs)).mp h
  exact (ParserRegs.inv_iff_of_done rfl).mpr ⟨endClass_ne_needMoreData p b, hf.1, hf.length_le, fun _ => ⟨hl, hf⟩⟩

/-- One byte offered to the parser keeps the invariant, in every parse state. -/
theorem feedByte_inv {p : ParserRegs} (h : p.Inv) (b : Byte) : (feedByte p b).Inv := by
  cases hs : p.st with
  | awaitStart => exact feedByte_awaitStart hs b ▸ feedAwaitStart_inv h hs b
  | awaitLength0 => exact feedByte_awaitLength0 hs b ▸ feedAwaitLength0_inv h hs b
  | awaitLength1 => exact feedByte_awaitLength1 hs b ▸ feedAwaitLength1_inv h hs b
  | awaitRepeatedStart => exact feedByte_awaitRepeatedStart hs b ▸ feedAwaitRepeatedStart_inv h hs b
  | awaitControl => exact feedByte_awaitControl hs b ▸ feedAwaitControl_inv h hs b
  | awaitAddress => exact feedByte_awaitAddress hs b ▸ feedAwaitAddress_inv h hs b
  | awaitPayload => exact feedByte_awaitPayload hs b ▸ feedAwaitPayload_inv h hs b
  | awaitChecksum => exact feedByte_awaitChecksum hs b ▸ feedAwaitChecksum_inv h hs b
  | awaitEnd => exact feedByte_awaitEnd hs b ▸ feedAwaitEnd_inv h hs b
  | done => exact (feedByte_done hs b).symm ▸ h

theorem offerBytes_inv {p : ParserRegs} (h : p.Inv) (bs : List Byte) : (offerBytes p bs).1.Inv := by
  induction bs generalizing p with
  | nil => exact h
  | cons b bs ih =>
    by_cases hd : p.st = .done
    · rw [offerBytes_done hd]; exact h
    · rw [offerBytes_cons hd]; exact ih (feedByte_inv h b)

/-! ### Every command and every step keeps it -/

/-- The four forms of a command: it only answers, it is FEED, it is RESET, or it is a chunk of FEEDs. -/
theorem instr_form_cases (i : Instr) :
    writesParser i = false ∨ (∃ b, i = .feed b) ∨ i = .reset ∨ ∃ bs, fedBytes i = some bs := by
  cases i with
  | feed b => exact .inr (.inl ⟨b, rfl⟩)
  | reset => exact .inr (.inr (.inl rfl))
  | decode | frameFixed | frameVariable => exact .inr (.inr (.inr ⟨_, rfl⟩))
  | _ => exact .inl rfl

theorem State.answer_next_parser {s t : State} {r : Response} (h : s.answer r = .next t) : t.parser = s.parser := by
  obtain ⟨q, rfl⟩ := State.answer_next h
  rfl

/-- A FEED either leaves the registers (held, or refused) or, outside Done, offers its byte to them. -/
theorem execFeed_next_parser {b : Byte} {s t : State} (h : execFeed b s = .next t) :
    t.parser = s.parser ∨ (s.parser.st ≠ .done ∧ t.parser = feedByte s.parser b) := by
  by_cases hd : s.parser.st = .done
  · rw [execFeed_held hd] at h
    exact .inl (State.answer_next_parser h)
  · rw [execFeed_consumed hd] at h
    obtain ⟨-, -, rfl⟩ | ⟨-, rfl⟩ := State.completeParser_next h
    · exact .inr ⟨hd, rfl⟩
    · exact .inl rfl

/-- Everything a command can do to the registers: leave them, reset them, or offer them bytes. -/
theorem exec_next_parser {i : Instr} {s t : State} (h : exec i s = .next t) :
    t.parser = s.parser ∨ (i = .reset ∧ t.parser = ParserRegs.reset) ∨ ∃ bs, t.parser = (offerBytes s.parser bs).1 := by
  obtain hw | ⟨b, rfl⟩ | rfl | ⟨bs, hf⟩ := instr_form_cases i
  · obtain ⟨r, hr⟩ := exec_answer hw s
    exact .inl (State.answer_next_parser (hr.symm.trans h))
  · obtain hp | ⟨hd, hp⟩ := execFeed_next_parser h
    · exact .inl hp
    · exact .inr (.inr ⟨[b], by rw [hp, offerBytes_cons hd, offerBytes_nil]⟩)
  · obtain ⟨-, -, rfl⟩ | ⟨-, rfl⟩ := State.completeParser_next h
    · exact .inr (.inl ⟨rfl, rfl⟩)
    · exact .inl rfl
  · rw [exec_feedChunk hf] at h
    obtain ⟨-, rfl⟩ | ⟨-, -, rfl⟩ | ⟨-, -, rfl⟩ := State.feedChunk_next h
    · exact .inr (.inr ⟨bs, rfl⟩)
    · exact .inl rfl
    · exact .inl rfl

theorem exec_inv {i : Instr} {s t : State} (hs : s.parser.Inv) (h : exec i s = .next t) : t.parser.Inv := by
  obtain hp | ⟨-, hp⟩ | ⟨bs, hp⟩ := exec_next_parser h <;> rw [hp]
  · exact hs
  · exact ParserRegs.inv_reset
  · exact offerBytes_inv hs bs

theorem step_inv {s t : State} (hs : s.parser.Inv) (h : step s = .next t) : t.parser.Inv := by
  obtain ⟨-, rfl⟩ | ⟨q, rest, -, ⟨i, -, hi⟩ | ⟨e, -, rfl⟩⟩ := step_next h
  · exact hs
  · exact exec_inv (s := { s with pending := rest }) hs hi
  · exact hs

/-! ### From it every command completes -/

theorem State.answer_completes (s : State) (r : Response) : ∃ t, s.answer r = .next t :=
  let ⟨_, hq, _⟩ := State.answer_cases s r
  ⟨_, hq⟩

theorem State.completeParser_completes {p : ParserRegs} (hp : p.pbuf.length ≤ Config.payloadMax) (s : State)
    (r : Response) : ∃ t, s.completeParser p r = .next t := by
  by_cases ha : s.admitted
  · exact ⟨_, State.completeParser_admitted ha (pbufOverflowed_of_le hp) r⟩
  · exact ⟨_, State.completeParser_unsupported ha p r⟩

theorem ParserRegs.Inv.pbuf_length_le {p : ParserRegs} (h : p.Inv) : p.pbuf.length ≤ Config.payloadMax := by
  obtain ⟨-, -, -, -, -, -, -, hmax⟩ := h
  exact hmax

theorem State.feedChunk_completes {s : State} (hs : s.parser.Inv) (bs : List Byte) (n : Nat) :
    ∃ t, State.feedChunk bs n s = .next t := by
  by_cases ha : s.admitted
  · exact ⟨_, State.feedChunk_admitted bs n ha (offerBytes_inv hs bs).pbuf_length_le⟩
  · cases bs with
    | nil => exact ⟨_, rfl⟩
    | cons b bs => exact ⟨_, State.feedChunk_unsupported ha b bs n⟩

theorem execFeed_completes {s : State} (hs : s.parser.Inv) (b : Byte) : ∃ t, execFeed b s = .next t := by
  by_cases hd : s.parser.st = .done
  · rw [execFeed_held hd]
    exact s.answer_completes _
  · rw [execFeed_consumed hd]
    exact State.completeParser_completes (feedByte_inv hs b).pbuf_length_le s _

theorem exec_completes {s : State} (hs : s.parser.Inv) (i : Instr) : ∃ t, exec i s = .next t := by
  obtain hw | ⟨b, rfl⟩ | rfl | ⟨bs, hf⟩ := instr_form_cases i
  · obtain ⟨r, hr⟩ := exec_answer hw s
    rw [hr]
    exact s.answer_completes r
  · exact execFeed_completes hs b
  · exact State.completeParser_completes (Nat.zero_le _) s _
  · rw [exec_feedChunk hf]
    exact State.feedChunk_completes hs bs 0

theorem step_completes {s : State} (hs : s.parser.Inv) : ∃ t, step s = .next t := by
  unfold step
  split
  next => exact ⟨s, rfl⟩
  next q rest _ =>
    split
    next i _ => exact exec_completes (s := { s with pending := rest }) hs i
    next => exact ⟨_, rfl⟩

/-! ### The obligations -/

/-- Settles O6: the reset state awaits the start byte, with an empty buffer. -/
theorem parserInvariantHoldsAtReset : Obligations.ParserInvariantHoldsAtReset := ParserRegs.inv_reset

/-- Settles O7: by what a step can do to the registers, each byte keeping the invariant. -/
theorem stepKeepsTheParserInvariant : Obligations.StepKeepsTheParserInvariant := fun _ _ => step_inv

end Sys2Proof.Machine
end

section
/-!
SUPPORT. The classification (R16): only a byte that ends a frame, and RESET, write it.
-/
namespace Sys2Proof.Machine

/-- A classification that ends a frame. -/
theorem Classification.terminal_of_ne {c : Classification} (h : c ≠ .needMoreData) :
    c = .noError ∨ c = .badFormat ∨ c = .checkError := by
  cases c with
  | needMoreData => exact absurd rfl h
  | noError => exact .inl rfl
  | badFormat => exact .inr (.inl rfl)
  | checkError => exact .inr (.inr rfl)

/-- What a byte does to `st` and `cls` outside Done: it enters Done with a terminal classification, and writes no other register,
or it stays outside Done and leaves `cls`. -/
theorem feedByte_enters_done_or_keeps_cls {p : ParserRegs} (hd : p.st ≠ .done) (b : Byte) :
    (∃ c, c ≠ .needMoreData ∧ feedByte p b = p.enterDone c) ∨
    ((feedByte p b).st ≠ .done ∧ (feedByte p b).cls = p.cls) := by
  cases hs : p.st with
  | awaitStart =>
    rw [feedByte_awaitStart hs, feedAwaitStart]
    split_ifs
    · exact .inr ⟨nofun, rfl⟩
    · exact .inr ⟨nofun, rfl⟩
    · exact .inl ⟨.badFormat, nofun, rfl⟩
  | awaitLength0 => rw [feedByte_awaitLength0 hs]; exact .inr ⟨nofun, rfl⟩
  | awaitLength1 => rw [feedByte_awaitLength1 hs]; exact .inr ⟨nofun, rfl⟩
  | awaitRepeatedStart =>
    rw [feedByte_awaitRepeatedStart hs, feedAwaitRepeatedStart]
    split_ifs
    · exact .inr ⟨nofun, rfl⟩
    · exact .inl ⟨.badFormat, nofun, rfl⟩
  | awaitControl => rw [feedByte_awaitControl hs]; exact .inr ⟨nofun, rfl⟩
  | awaitAddress =>
    rw [feedByte_awaitAddress hs]
    obtain hk | hk := p.kind.fixed_or_variable
    · rw [feedAwaitAddress_fixed hk]; exact .inr ⟨nofun, rfl⟩
    · rw [feedAwaitAddress_variable hk]; exact .inr ⟨nofun, rfl⟩
  | awaitPayload =>
    rw [feedByte_awaitPayload hs]
    by_cases hlast : p.pbuf.length + 3 = p.len0.toNat
    · rw [feedAwaitPayload_last hlast]; exact .inr ⟨nofun, rfl⟩
    · rw [feedAwaitPayload_more hlast]; exact .inr ⟨hd, rfl⟩
  | awaitChecksum => rw [feedByte_awaitChecksum hs]; exact .inr ⟨nofun, rfl⟩
  | awaitEnd =>
    rw [feedByte_awaitEnd hs]
    exact .inl ⟨endClass p b, endClass_ne_needMoreData p b, rfl⟩
  | done => exact absurd hs hd

/-- From the invariant a chunk that changes `cls` has ended a frame: in Done no byte is taken, and outside Done before and after
it `cls` is NeedMoreData both times. -/
theorem offerBytes_cls_ne {p : ParserRegs} (h : p.Inv) {bs : List Byte} (hne : (offerBytes p bs).1.cls ≠ p.cls) :
    p.st ≠ .done ∧ (offerBytes p bs).1.st = .done := by
  have hd : p.st ≠ .done := fun hd => hne (by rw [offerBytes_done hd])
  refine ⟨hd, Decidable.byContradiction fun hn => hne ?_⟩
  rw [(offerBytes_inv h bs).1.mpr hn, h.1.mpr hd]

/-- A command other than RESET changes `cls` only in entering Done. -/
theorem exec_cls_ne {i : Instr} {s t : State} (hs : s.parser.Inv) (h : exec i s = .next t)
    (hne : t.parser.cls ≠ s.parser.cls) : i = .reset ∨ (s.parser.st ≠ .done ∧ t.parser.st = .done) := by
  obtain hp | ⟨hi, -⟩ | ⟨bs, hp⟩ := exec_next_parser h
  · exact absurd (by rw [hp]) hne
  · exact .inl hi
  · rw [hp] at hne ⊢
    exact .inr (offerBytes_cls_ne hs hne)

/-- Settles O10: the invariant gives the first two clauses; the last two are what one byte and RESET do. -/
theorem classificationChangesOnlyAtDoneAndReset : Obligations.ClassificationChangesOnlyAtDoneAndReset := by
  refine ⟨fun s t hs h => (step_inv hs h).1, fun i s t hs h => exec_cls_ne hs h, fun b s t ha h => ?_, fun s t ha h => ?_⟩
  · obtain hp | ⟨hd, hp⟩ := execFeed_next_parser h <;> rw [hp]
    · exact ⟨fun _ => rfl, fun hd hd' => absurd hd' hd, fun _ => rfl⟩
    · obtain ⟨c, hc, he⟩ | ⟨hn, hcls⟩ := feedByte_enters_done_or_keeps_cls hd b
      · rw [he]
        exact ⟨fun hd' => absurd hd' hd, fun _ _ => Classification.terminal_of_ne hc, fun hn => absurd rfl hn⟩
      · exact ⟨fun hd' => absurd hd' hd, fun _ hd' => absurd hd' hn, fun _ => hcls⟩
  · obtain ⟨-, -, rfl⟩ | ⟨hn, -⟩ := State.completeParser_next h
    · exact ⟨rfl, rfl⟩
    · exact absurd ha hn

end Sys2Proof.Machine
end

section
/-!
SUPPORT. What stepping one link of a system can do (10_state R33).
-/
namespace Sys2Proof.Machine

/-- Everything stepping a link can do with a next state: its state steps, and takes its own place again. -/
theorem System.stepLink_next {y y' : System} {k : Fin y.length} (h : y.stepLink k = .next y') :
    ∃ t, step (y.get k) = .next t ∧ y' = y.set k t := by
  unfold System.stepLink at h
  cases hst : step (y.get k) with
  | next t => rw [hst] at h; exact ⟨t, rfl, (Host.Outcome.next.inj h).symm⟩
  | fault r => rw [hst] at h; cases h
  | refused r => rw [hst] at h; cases h

/-- Settles O18: `stepLink` writes one place of the list, and the reset system repeats the reset state. -/
theorem linksDoNotInteract : Obligations.LinksDoNotInteract := by
  refine ⟨fun n k hk => List.getElem?_replicate_of_lt hk, fun y y' k h => ?_⟩
  obtain ⟨t, hst, rfl⟩ := System.stepLink_next h
  exact ⟨⟨t, hst, List.getElem?_set_self k.isLt⟩, fun j hj => List.getElem?_set_ne hj.symm⟩

end Sys2Proof.Machine
end

section
/-!
SUPPORT. Live registers: those a later response can still depend on, state by state. Two instances that agree on them give the
same responses and counts for ever, and the byte registers are dead in the reset state (10_state R26, R31).
-/
namespace Sys2Proof.Machine

/-! ### The live part of the registers -/

/-- The registers with every dead one at its reset value. A register is dead where the parser writes it again before it reads it:
`kind` is read with the address byte, the lengths by R101's checks and on the variable path by R104's count, `ctrl` and `addr` by
the checksum and by TOFRAME, `csrx` with the end byte. `st`, `cls` and `pbuf` are always live. -/
def ParserRegs.live (p : ParserRegs) : ParserRegs :=
  let base : ParserRegs := { ParserRegs.reset with st := p.st, cls := p.cls, pbuf := p.pbuf }
  let header : ParserRegs := { base with kind := p.kind, len0 := match p.kind with | .fixed => 0x00 | .variable => p.len0 }
  match p.st with
  | .awaitStart => base
  | .awaitLength0 => { base with kind := p.kind }
  | .awaitLength1 => { base with kind := p.kind, len0 := p.len0 }
  | .awaitRepeatedStart => { base with kind := p.kind, len0 := p.len0, len1 := p.len1 }
  | .awaitControl => header
  | .awaitAddress => { header with ctrl := p.ctrl }
  | .awaitPayload => { base with len0 := p.len0, ctrl := p.ctrl, addr := p.addr }
  | .awaitChecksum => { base with ctrl := p.ctrl, addr := p.addr }
  | .awaitEnd => { base with ctrl := p.ctrl, addr := p.addr, csrx := p.csrx }
  | .done => match p.cls with
    | .noError => { base with ctrl := p.ctrl, addr := p.addr }
    | _ => base

/-- What no parse state drops. -/
theorem ParserRegs.live_always (p : ParserRegs) : p.live.st = p.st ∧ p.live.cls = p.cls ∧ p.live.pbuf = p.pbuf := by
  unfold ParserRegs.live
  cases p.st with
  | awaitControl | awaitAddress => cases p.kind <;> exact ⟨rfl, rfl, rfl⟩
  | done => cases p.cls <;> exact ⟨rfl, rfl, rfl⟩
  | _ => exact ⟨rfl, rfl, rfl⟩

@[simp] theorem ParserRegs.live_st (p : ParserRegs) : p.live.st = p.st := p.live_always.1
@[simp] theorem ParserRegs.live_cls (p : ParserRegs) : p.live.cls = p.cls := p.live_always.2.1
@[simp] theorem ParserRegs.live_pbuf (p : ParserRegs) : p.live.pbuf = p.pbuf := p.live_always.2.2

theorem ParserRegs.live_of_awaitStart {p : ParserRegs} (hs : p.st = .awaitStart) :
    p.live = { ParserRegs.reset with cls := p.cls, pbuf := p.pbuf } := by
  simp [ParserRegs.live, hs, ParserRegs.reset]

/-- TOFRAME's Frame is live where TOFRAME answers it. -/
theorem ParserRegs.live_frame {p : ParserRegs} (hs : p.st = .done) (hc : p.cls = .noError) :
    p.live.frame = p.frame := by
  simp [ParserRegs.live, ParserRegs.frame, hs, hc]

/-- R101's checks read live registers. -/
theorem repeatedStartOk_live {p : ParserRegs} (hs : p.st = .awaitRepeatedStart) (b : Byte) :
    repeatedStartOk p.live b = repeatedStartOk p b := by
  simp [repeatedStartOk, ParserRegs.live, hs]

/-- So does R104's count. -/
theorem ParserRegs.live_len0_of_awaitPayload {p : ParserRegs} (hs : p.st = .awaitPayload) : p.live.len0 = p.len0 := by
  simp [ParserRegs.live, hs]

theorem feedAwaitPayload_live {p : ParserRegs} (hs : p.st = .awaitPayload) (b : Byte) :
    (feedAwaitPayload p.live b).live = (feedAwaitPayload p b).live := by
  have hcount : p.live.pbuf.length + 3 = p.live.len0.toNat ↔ p.pbuf.length + 3 = p.len0.toNat := by
    rw [ParserRegs.live_pbuf, ParserRegs.live_len0_of_awaitPayload hs]
  by_cases hlast : p.pbuf.length + 3 = p.len0.toNat
  · rw [feedAwaitPayload_last hlast, feedAwaitPayload_last (hcount.mpr hlast)]
    simp [ParserRegs.live, hs]
  · rw [feedAwaitPayload_more hlast, feedAwaitPayload_more (mt hcount.mp hlast)]
    simp [ParserRegs.live, hs]

/-- A byte's effect on the live registers depends on the live registers alone. -/
theorem feedByte_live (p : ParserRegs) (b : Byte) : (feedByte p.live b).live = (feedByte p b).live := by
  obtain ⟨st, cls, kind, ctrl, addr, len0, len1, pbuf, csrx⟩ := p
  cases st with
  | awaitStart =>
    simp only [feedByte, ParserRegs.live_st, feedAwaitStart]
    split_ifs <;> rfl
  | awaitRepeatedStart =>
    simp only [feedByte, ParserRegs.live_st, feedAwaitRepeatedStart, repeatedStartOk_live]
    cases kind <;> split_ifs <;> rfl
  | awaitControl | awaitAddress => cases kind <;> rfl
  | awaitPayload => exact feedAwaitPayload_live rfl b
  | done => cases cls <;> rfl
  | awaitLength0 | awaitLength1 | awaitChecksum | awaitEnd => rfl

/-! ### Two register files that agree on the live part -/

theorem ParserRegs.st_eq_of_live_eq {p q : ParserRegs} (h : p.live = q.live) : p.st = q.st := by
  rw [← p.live_st, h, q.live_st]

theorem ParserRegs.cls_eq_of_live_eq {p q : ParserRegs} (h : p.live = q.live) : p.cls = q.cls := by
  rw [← p.live_cls, h, q.live_cls]

theorem feedByte_live_congr {p q : ParserRegs} (h : p.live = q.live) (b : Byte) :
    (feedByte p b).live = (feedByte q b).live := by
  rw [← feedByte_live p, h, feedByte_live q]

/-- They take the same number of a chunk's bytes, and agree after it. -/
theorem offerBytes_live_congr {p q : ParserRegs} (h : p.live = q.live) (bs : List Byte) :
    (offerBytes p bs).1.live = (offerBytes q bs).1.live ∧ (offerBytes p bs).2 = (offerBytes q bs).2 := by
  induction bs generalizing p q with
  | nil => exact ⟨h, rfl⟩
  | cons b bs ih =>
    have hst := ParserRegs.st_eq_of_live_eq h
    by_cases hd : p.st = .done
    · rw [offerBytes_done hd, offerBytes_done (hst ▸ hd)]
      exact ⟨h, rfl⟩
    · obtain ⟨hlive, hcount⟩ := ih (feedByte_live_congr h b)
      rw [offerBytes_cons hd, offerBytes_cons (hst ▸ hd)]
      exact ⟨hlive, congrArg (· + 1) hcount⟩

/-! ### Twins: two instances that agree but for dead registers -/

/-- Two instances that differ in dead registers at most. -/
structure State.Twins (s₁ s₂ : State) : Prop where
  addrBytes : s₁.addrBytes = s₂.addrBytes
  live : s₁.parser.live = s₂.parser.live
  pending : s₁.pending = s₂.pending
  responses : s₁.responses = s₂.responses
  counts : s₁.counts = s₂.counts

theorem State.Twins.admitted_iff {s₁ s₂ : State} (h : s₁.Twins s₂) : s₁.admitted ↔ s₂.admitted := by
  rw [State.admitted, State.admitted, h.addrBytes]

theorem State.Twins.respond {s₁ s₂ : State} (h : s₁.Twins s₂) (r : Response) :
    (s₁.respond r).Twins (s₂.respond r) :=
  { h with responses := congrArg (r :: ·) h.responses }

theorem State.Twins.returnCount {s₁ s₂ : State} (h : s₁.Twins s₂) (n : Nat) :
    (s₁.returnCount n).Twins (s₂.returnCount n) :=
  { h with counts := congrArg (n :: ·) h.counts }

theorem State.Twins.withParser {s₁ s₂ : State} (h : s₁.Twins s₂) {p₁ p₂ : ParserRegs} (hp : p₁.live = p₂.live) :
    State.Twins { s₁ with parser := p₁ } { s₂ with parser := p₂ } :=
  { h with live := hp }

theorem State.Twins.withPending {s₁ s₂ : State} (h : s₁.Twins s₂) (rest : List Request) :
    State.Twins { s₁ with pending := rest } { s₂ with pending := rest } :=
  { h with pending := rfl }

theorem State.Twins.afterChunk {s₁ s₂ : State} (h : s₁.Twins s₂) (bs : List Byte) (n : Nat) :
    (s₁.afterChunk bs n).Twins (s₂.afterChunk bs n) := by
  obtain ⟨hlive, hcount⟩ := offerBytes_live_congr h.live bs
  exact ⟨h.addrBytes, hlive, h.pending, by simp only [State.afterChunk, hcount, h.responses],
    by simp only [State.afterChunk, hcount, h.counts]⟩

/-! ### The same command leaves twins twins -/

theorem State.Twins.answer {s₁ s₂ t₁ t₂ : State} (h : s₁.Twins s₂) {r : Response} (h₁ : s₁.answer r = .next t₁)
    (h₂ : s₂.answer r = .next t₂) : t₁.Twins t₂ := by
  by_cases ha : s₁.admitted
  · rw [State.answer_admitted ha] at h₁
    rw [State.answer_admitted (h.admitted_iff.mp ha)] at h₂
    cases h₁; cases h₂
    exact h.respond r
  · rw [State.answer_unsupported ha] at h₁
    rw [State.answer_unsupported (mt h.admitted_iff.mpr ha)] at h₂
    cases h₁; cases h₂
    exact h.respond _

theorem State.Twins.completeParser {s₁ s₂ t₁ t₂ : State} (h : s₁.Twins s₂) {p₁ p₂ : ParserRegs} (hp : p₁.live = p₂.live)
    {r : Response} (h₁ : s₁.completeParser p₁ r = .next t₁) (h₂ : s₂.completeParser p₂ r = .next t₂) : t₁.Twins t₂ := by
  obtain ⟨ha₁, -, rfl⟩ | ⟨ha₁, rfl⟩ := State.completeParser_next h₁ <;>
    obtain ⟨ha₂, -, rfl⟩ | ⟨ha₂, rfl⟩ := State.completeParser_next h₂
  · exact (h.withParser hp).respond r
  · exact absurd (h.admitted_iff.mp ha₁) ha₂
  · exact absurd (h.admitted_iff.mpr ha₂) ha₁
  · exact h.respond _

theorem State.Twins.execFeed {s₁ s₂ t₁ t₂ : State} (h : s₁.Twins s₂) {b : Byte} (h₁ : execFeed b s₁ = .next t₁)
    (h₂ : execFeed b s₂ = .next t₂) : t₁.Twins t₂ := by
  have hst := ParserRegs.st_eq_of_live_eq h.live
  by_cases hd : s₁.parser.st = .done
  · rw [execFeed_held hd] at h₁
    rw [execFeed_held (hst ▸ hd)] at h₂
    exact h.answer h₁ h₂
  · rw [execFeed_consumed hd] at h₁
    rw [execFeed_consumed (hst ▸ hd)] at h₂
    exact h.completeParser (feedByte_live_congr h.live b) h₁ h₂

theorem State.feedChunk_next_admitted {bs : List Byte} {n : Nat} {s t : State} (ha : s.admitted)
    (h : State.feedChunk bs n s = .next t) : t = s.afterChunk bs n := by
  obtain ⟨-, ht⟩ | ⟨hn, -⟩ | ⟨hn, -⟩ := State.feedChunk_next h
  · exact ht
  · exact absurd ha hn
  · exact absurd ha hn

theorem State.Twins.feedChunk {s₁ s₂ t₁ t₂ : State} (h : s₁.Twins s₂) {bs : List Byte} {n : Nat}
    (h₁ : State.feedChunk bs n s₁ = .next t₁) (h₂ : State.feedChunk bs n s₂ = .next t₂) : t₁.Twins t₂ := by
  by_cases ha : s₁.admitted
  · have ha₂ := h.admitted_iff.mp ha
    rw [State.feedChunk_next_admitted ha h₁, State.feedChunk_next_admitted ha₂ h₂]
    exact h.afterChunk bs n
  · cases bs with
    | nil => cases h₁; cases h₂; exact h.returnCount n
    | cons b bs =>
      rw [State.feedChunk_unsupported ha] at h₁
      rw [State.feedChunk_unsupported (mt h.admitted_iff.mpr ha)] at h₂
      cases h₁; cases h₂
      exact (h.respond _).returnCount n

/-- Twins give a command that writes no register the same response. STATUS reads `cls`, and TOFRAME reads `cls`, `ctrl`, `addr` and
`pbuf`, all live in Done (R16); the others read no register. -/
theorem State.Twins.exec_answer {s₁ s₂ : State} (h : s₁.Twins s₂) (hs : s₁.parser.Inv) {i : Instr}
    (hi : writesParser i = false) : ∃ r, exec i s₁ = s₁.answer r ∧ exec i s₂ = s₂.answer r := by
  have hst := ParserRegs.st_eq_of_live_eq h.live
  have hcls := ParserRegs.cls_eq_of_live_eq h.live
  cases i with
  | feed | reset | decode | frameFixed | frameVariable => cases hi
  | status => exact ⟨_, rfl, by rw [hcls]; rfl⟩
  | toFrame =>
    by_cases hc : s₁.parser.cls = .noError
    · have hd : s₁.parser.st = .done := Decidable.byContradiction fun hn => by simp [hs.1.mpr hn] at hc
      have hframe : s₁.parser.frame = s₂.parser.frame := by
        rw [← ParserRegs.live_frame hd hc, h.live, ParserRegs.live_frame (hst ▸ hd) (hcls ▸ hc)]
      exact ⟨_, execToFrame_ready hc, hframe ▸ execToFrame_ready (hcls ▸ hc)⟩
    · exact ⟨_, execToFrame_notReady hc, execToFrame_notReady (hcls ▸ hc)⟩
  | encode f => simp only [exec, execEncode]; split <;> exact ⟨_, rfl, rfl⟩
  | _ => exact ⟨_, rfl, rfl⟩

theorem State.Twins.exec {s₁ s₂ t₁ t₂ : State} (h : s₁.Twins s₂) (hs : s₁.parser.Inv) {i : Instr}
    (h₁ : exec i s₁ = .next t₁) (h₂ : exec i s₂ = .next t₂) : t₁.Twins t₂ := by
  obtain hw | ⟨b, rfl⟩ | rfl | ⟨bs, hf⟩ := instr_form_cases i
  · obtain ⟨r, hr₁, hr₂⟩ := h.exec_answer hs hw
    exact h.answer (hr₁.symm.trans h₁) (hr₂.symm.trans h₂)
  · exact h.execFeed h₁ h₂
  · exact h.completeParser rfl h₁ h₂
  · rw [exec_feedChunk hf] at h₁ h₂
    exact h.feedChunk h₁ h₂

theorem State.Twins.step {s₁ s₂ t₁ t₂ : State} (h : s₁.Twins s₂) (hs : s₁.parser.Inv)
    (h₁ : step s₁ = .next t₁) (h₂ : step s₂ = .next t₂) : t₁.Twins t₂ := by
  unfold Machine.step at h₁ h₂
  rw [← h.pending] at h₂
  cases hp : s₁.pending with
  | nil => simp only [hp] at h₁ h₂; cases h₁; cases h₂; exact h
  | cons q rest =>
    have hpop := h.withPending rest
    cases hd : decode q with
    | ok i => simp only [hp, hd] at h₁ h₂; exact hpop.exec hs h₁ h₂
    | error e => simp only [hp, hd] at h₁ h₂; cases h₁; cases h₂; exact hpop.respond _

/-- From the invariant twins run on, side by side, and stay twins. -/
theorem State.Twins.runSteps {s₁ s₂ : State} (h : s₁.Twins s₂) (hs₁ : s₁.parser.Inv) (hs₂ : s₂.parser.Inv) (n : Nat) :
    ∃ t₁ t₂, s₁.runSteps n = .next t₁ ∧ s₂.runSteps n = .next t₂ ∧ t₁.Twins t₂ := by
  induction n generalizing s₁ s₂ with
  | zero => exact ⟨s₁, s₂, rfl, rfl, h⟩
  | succ n ih =>
    obtain ⟨u₁, hu₁⟩ := step_completes hs₁
    obtain ⟨u₂, hu₂⟩ := step_completes hs₂
    simpa only [State.runSteps, hu₁, hu₂] using ih (h.step hs₁ hu₁ hu₂) (step_inv hs₁ hu₁) (step_inv hs₂ hu₂)

/-- Settles O17: in AwaitStart only `st`, `cls` and `pbuf` are live, so the two instances are twins. -/
theorem byteRegistersAtResetAreUnobservable : Obligations.ByteRegistersAtResetAreUnobservable := by
  intro n s₁ s₂ haddr hpend hresp hcounts hst₁ hst₂ hcls₁ hcls₂ hbuf₁ hbuf₂
  have hlive : s₁.parser.live = s₂.parser.live := by
    rw [ParserRegs.live_of_awaitStart hst₁, ParserRegs.live_of_awaitStart hst₂, hcls₁, hcls₂, hbuf₁, hbuf₂]
  have htwins : s₁.Twins s₂ := ⟨haddr, hlive, hpend, hresp, hcounts⟩
  obtain ⟨t₁, t₂, h₁, h₂, ht⟩ := htwins.runSteps ((ParserRegs.inv_iff_of_awaitStart hst₁).mpr ⟨hcls₁, hbuf₁⟩)
    ((ParserRegs.inv_iff_of_awaitStart hst₂).mpr ⟨hcls₂, hbuf₂⟩) n
  exact ⟨t₁, t₂, h₁, h₂, ht.responses, ht.counts⟩

end Sys2Proof.Machine
end

section
/-!
SUPPORT. What each kind of command does to the registers (20_memory R41): a command that only answers answers the same again, and
a consumed byte always moves the parser on.
-/
namespace Sys2Proof.Machine

/-! ### Commands that only answer -/

/-- The registers alone settle what a command that may not write them (R41) answers. -/
theorem exec_answer_of_parser {i : Instr} (hi : writesParser i = false) (p : ParserRegs) :
    ∃ r, ∀ s : State, s.parser = p → exec i s = s.answer r := by
  cases i with
  | feed | reset | decode | frameFixed | frameVariable => cases hi
  | status => exact ⟨.okData (statusReg p.cls), fun s hs => hs ▸ rfl⟩
  | toFrame =>
    by_cases hc : p.cls = .noError
    · exact ⟨.okFrame p.frame, fun s hs => hs ▸ execToFrame_ready (hs ▸ hc)⟩
    · exact ⟨_, fun s hs => execToFrame_notReady (hs ▸ hc)⟩
  | encode f => simp only [exec, execEncode]; split <;> exact ⟨_, fun _ _ => rfl⟩
  | _ => exact ⟨_, fun _ _ => rfl⟩

/-- An answer given twice is the same response twice, in every configuration. -/
theorem State.answer_respond_answer (s : State) (r : Response) :
    ∃ q, s.answer r = .next (s.respond q) ∧ (s.respond q).answer r = .next ((s.respond q).respond q) := by
  by_cases ha : s.admitted
  · exact ⟨r, State.answer_admitted ha r, State.answer_admitted (s := s.respond r) ha r⟩
  · exact ⟨_, State.answer_unsupported ha r, State.answer_unsupported (s := s.respond _) ha r⟩

/-- A command that only answers is idempotent: issued again, it gives the response it gave. -/
theorem exec_answer_again {i : Instr} (hi : writesParser i = false) {s t : State} (h : exec i s = .next t) :
    ∃ r, t = s.respond r ∧ exec i t = .next (t.respond r) := by
  obtain ⟨r, hr⟩ := exec_answer_of_parser hi s.parser
  obtain ⟨q, hq, hq'⟩ := s.answer_respond_answer r
  obtain rfl : s.respond q = t := Host.Outcome.next.inj (hq.symm.trans ((hr s rfl).symm.trans h))
  exact ⟨q, rfl, (hr (s.respond q) rfl).trans hq'⟩

/-! ### Consumed bytes -/

/-- A parse state's place in R13's order. -/
def ParseState.place : ParseState → Nat
  | .awaitStart => 0
  | .awaitLength0 => 1
  | .awaitLength1 => 2
  | .awaitRepeatedStart => 3
  | .awaitControl => 4
  | .awaitAddress => 5
  | .awaitPayload => 6
  | .awaitChecksum => 7
  | .awaitEnd => 8
  | .done => 9

/-- How far the parser has come: the place of `st` and the payload bytes held. -/
def ParserRegs.progress (p : ParserRegs) : Nat := p.st.place + p.pbuf.length

/-- A consumed byte never moves `st` back in R13's order, and moves it forward outside AwaitPayload. -/
theorem feedByte_place {p : ParserRegs} (hd : p.st ≠ .done) (b : Byte) :
    p.st.place + (if p.st = .awaitPayload then 0 else 1) ≤ (feedByte p b).st.place := by
  cases hs : p.st with
  | awaitStart =>
    rw [feedByte_awaitStart hs, feedAwaitStart]
    split_ifs <;> simp [ParseState.place]
  | awaitLength0 => rw [feedByte_awaitLength0 hs]; simp [feedAwaitLength0, ParseState.place]
  | awaitLength1 => rw [feedByte_awaitLength1 hs]; simp [feedAwaitLength1, ParseState.place]
  | awaitRepeatedStart =>
    rw [feedByte_awaitRepeatedStart hs, feedAwaitRepeatedStart]
    split_ifs <;> simp [ParseState.place]
  | awaitControl => rw [feedByte_awaitControl hs]; simp [feedAwaitControl, ParseState.place]
  | awaitAddress =>
    rw [feedByte_awaitAddress hs]
    obtain hk | hk := p.kind.fixed_or_variable
    · rw [feedAwaitAddress_fixed hk]; simp [ParseState.place]
    · rw [feedAwaitAddress_variable hk]; simp [ParseState.place]
  | awaitPayload =>
    rw [feedByte_awaitPayload hs]
    by_cases hlast : p.pbuf.length + 3 = p.len0.toNat
    · rw [feedAwaitPayload_last hlast]; simp [ParseState.place]
    · rw [feedAwaitPayload_more hlast]; simp [hs]
  | awaitChecksum => rw [feedByte_awaitChecksum hs]; simp [feedAwaitChecksum, ParseState.place]
  | awaitEnd => rw [feedByte_awaitEnd hs]; simp [feedAwaitEnd, ParseState.place]
  | done => exact absurd hs hd

/-- A consumed byte is progress in every state, reachable or not: `pbuf` grows in AwaitPayload, `st` moves on in any other. -/
theorem feedByte_progress {p : ParserRegs} (hd : p.st ≠ .done) (b : Byte) : p.progress < (feedByte p b).progress := by
  have hplace := feedByte_place hd b
  unfold ParserRegs.progress
  rw [feedByte_pbuf]
  split_ifs at hplace ⊢
  · rw [List.length_append, List.length_singleton]; omega
  · omega

/-- Each byte of a chunk that is accepted adds to the progress. -/
theorem offerBytes_progress (p : ParserRegs) (bs : List Byte) :
    p.progress + (offerBytes p bs).2 ≤ (offerBytes p bs).1.progress := by
  induction bs generalizing p with
  | nil => exact le_rfl
  | cons b bs ih =>
    by_cases hd : p.st = .done
    · rw [offerBytes_done hd]; exact le_rfl
    · rw [offerBytes_cons hd]
      have hfirst := feedByte_progress hd b
      have hrest := ih (feedByte p b)
      dsimp only
      omega

/-- Bytes leave the registers as they were only in Done, where none is consumed. -/
theorem offerBytes_eq_self_iff (p : ParserRegs) (b : Byte) (bs : List Byte) :
    (offerBytes p (b :: bs)).1 = p ↔ p.st = .done := by
  refine ⟨fun h => Decidable.byContradiction fun hd => ?_, fun hd => by rw [offerBytes_done hd]⟩
  have hle := offerBytes_progress p (b :: bs)
  rw [h, offerBytes_cons hd] at hle
  omega

theorem feedByte_eq_self_iff (p : ParserRegs) (b : Byte) : feedByte p b = p ↔ p.st = .done := by
  refine ⟨fun h => Decidable.byContradiction fun hd => ?_, fun hd => feedByte_done hd b⟩
  have hlt := feedByte_progress hd b
  rw [h] at hlt
  exact lt_irrefl _ hlt

/-! ### FEED and RESET -/

/-- In the admitted configuration a FEED that completes leaves what its byte makes of the registers, in Done no change. -/
theorem execFeed_next_parser_admitted {b : Byte} {s t : State} (ha : s.admitted) (h : execFeed b s = .next t) :
    t.parser = feedByte s.parser b := by
  by_cases hd : s.parser.st = .done
  · rw [execFeed_held hd] at h
    rw [State.answer_next_parser h, feedByte_done hd]
  · rw [execFeed_consumed hd] at h
    obtain ⟨-, -, rfl⟩ | ⟨hn, -⟩ := State.completeParser_next h
    · rfl
    · exact absurd ha hn

/-- RESET restores the reset values or, in another configuration, leaves the registers. -/
theorem execReset_next_parser {s t : State} (h : execReset s = .next t) :
    (s.admitted ∧ t.admitted ∧ t.parser = ParserRegs.reset) ∨ (¬ s.admitted ∧ ¬ t.admitted ∧ t.parser = s.parser) := by
  obtain ⟨ha, -, rfl⟩ | ⟨ha, rfl⟩ := State.completeParser_next h
  · exact .inl ⟨ha, ha, rfl⟩
  · exact .inr ⟨ha, ha, rfl⟩

/-- A second RESET finds the configuration of the first, and so leaves the registers the first left. -/
theorem execReset_idempotent {s t u : State} (h₁ : execReset s = .next t) (h₂ : execReset t = .next u) :
    u.parser = t.parser := by
  obtain ⟨ha, -, hp₂⟩ | ⟨-, -, hp₂⟩ := execReset_next_parser h₂
  · obtain ⟨-, -, hp₁⟩ | ⟨-, hn, -⟩ := execReset_next_parser h₁
    · rw [hp₁, hp₂]
    · exact absurd ha hn
  · exact hp₂

/-- Settles O16: an answer is given again from the same registers, and a consumed byte is progress that no later byte undoes. -/
theorem sideEffectsByCommand : Obligations.SideEffectsByCommand := by
  refine ⟨fun i s t hi h => ?_, fun b s t ha h => ?_, fun b bs s t ha h => ?_, fun s t u => execReset_idempotent⟩
  · obtain ⟨r, rfl, hr⟩ := exec_answer_again hi h
    exact ⟨rfl, r, rfl, hr⟩
  · rw [execFeed_next_parser_admitted ha h, feedByte_eq_self_iff]
  · rw [State.feedChunk_next_admitted ha h, State.afterChunk_parser, offerBytes_eq_self_iff]

end Sys2Proof.Machine
end

section
/-!
SUPPORT. How a step serves the oldest pending transaction (20_memory R40, R44): one equation for each of its outcomes.
-/
namespace Sys2Proof.Machine

theorem step_of_nothing_pending {s : State} (hp : s.pending = []) : step s = .next s := by
  simp [step, hp]

theorem step_of_decoded {s : State} {q : Request} {rest : List Request} {i : Instr} (hp : s.pending = q :: rest)
    (hd : decode q = .ok i) : step s = exec i { s with pending := rest } := by
  simp [step, hp, hd]

theorem step_of_reserved {s : State} {q : Request} {rest : List Request} {e : DecodeError} (hp : s.pending = q :: rest)
    (hd : decode q = .error e) :
    step s = .next (State.respond { s with pending := rest } (.refused .illegalCommand)) := by
  simp [step, hp, hd]

theorem decodeTableWord_eq_some {nbits w : Nat} {i : Instr} :
    decodeTableWord nbits w = some i ↔ decode (tableRequest nbits w) = .ok i := by
  unfold decodeTableWord
  cases decode (tableRequest nbits w) with
  | ok j => simp [Except.toOption]
  | error e => simp [Except.toOption]

/-- Settles O1: the equations of `step`; the state under a fetched word is the state itself. -/
theorem stepServesTheDecodedCommand : Obligations.StepServesTheDecodedCommand := fun s =>
  ⟨step_of_nothing_pending, fun _ _ _ => step_of_decoded, fun _ _ _ => step_of_reserved,
    fun nbits w _ hw => step_of_decoded (s.withFetchWord_pending nbits w) (decodeTableWord_eq_some.mp hw)⟩

end Sys2Proof.Machine
end

section
/-!
SUPPORT. The append to a full payload buffer (20_memory R35; log entry 8): where the machine stops, and that the invariant keeps
the parser away from it.
-/
namespace Sys2Proof.Machine

theorem State.completeParser_overflow {s : State} {p : ParserRegs} (ha : s.admitted)
    (hp : pbufOverflowed s.parser p = true) (r : Response) : s.completeParser p r = .fault .pbufOverflow := by
  simp [State.completeParser, ha, hp]

/-- One byte more than a full buffer's is an overflow. -/
theorem pbufOverflowed_feedByte {p : ParserRegs} (hs : p.st = .awaitPayload) (hfull : Config.payloadMax ≤ p.pbuf.length)
    (b : Byte) : pbufOverflowed p (feedByte p b) = true := by
  have hlen : (feedByte p b).pbuf.length = p.pbuf.length + 1 := by
    rw [feedByte_pbuf, if_pos hs, List.length_append, List.length_singleton]
  rw [pbufOverflowed, hlen, Bool.and_eq_true, decide_eq_true_iff, decide_eq_true_iff]
  omega

/-- The fill stays below `len0 − 2` in AwaitPayload, and `len0` is one byte (R21). -/
theorem ParserRegs.Inv.pbuf_length_lt {p : ParserRegs} (h : p.Inv) (hs : p.st = .awaitPayload) :
    p.pbuf.length < Config.payloadMax := by
  obtain ⟨-, -, -, hroom⟩ := (ParserRegs.inv_iff_of_awaitPayload hs).mp h
  have hbyte := p.len0.isLt
  simp only [Config.payloadMax]
  omega

/-- Settles O9: the append makes the full buffer too long; under the invariant there is room for it. -/
theorem appendToAFullBufferStops : Obligations.AppendToAFullBufferStops := by
  refine ⟨fun b s ha hs hfull => ?_, fun p h hs => h.pbuf_length_lt hs⟩
  have hconsumed : s.parser.st ≠ .done := by rw [hs]; decide
  exact (execFeed_consumed hconsumed b).trans (State.completeParser_overflow ha (pbufOverflowed_feedByte hs hfull b) _)

end Sys2Proof.Machine
end

section
/-!
SUPPORT. Decoding what the encoder spells (30_encoding R50 to R53, R62, R63): one equation for each group of command words and for
each kind of wire frame.
-/
namespace Sys2Proof

/-! ### The groups `op` selects (R51) -/

section Groups
variable {w : CmdWord} (f : Frame)

theorem decodeCommand_of_feed (h : (opField w).toNat = 1) : decodeCommand w f = decodeByteOperand w .feed := by
  simp [decodeCommand, h]

theorem decodeCommand_of_get (h : (opField w).toNat = 5) : decodeCommand w f = decodeGet w := by
  simp [decodeCommand, h]

theorem decodeCommand_of_set (h : (opField w).toNat = 6) : decodeCommand w f = decodeSet w := by
  simp [decodeCommand, h]

end Groups

/-! ### Words of each group -/

theorem decodeByteOperand_cmdWord (op : BitVec 4) (b : Byte) (mk : Byte → Instr) :
    decodeByteOperand (cmdWord op 0 0 b) mk = .ok (mk b) := by
  simp [decodeByteOperand]

theorem decodeBare_cmdWord (op : BitVec 4) (i : Instr) : decodeBare (cmdWord op 0 0 0) i = .ok i := by
  simp [decodeBare]

/-- A 1-bit value leaves `val[7:1]` zero, and is read back from `val[0]` (R53). -/
theorem extractLsb'_zeroExtend_bit (v : BitVec 1) :
    (v.zeroExtend 8).extractLsb' 1 7 = 0 ∧ (v.zeroExtend 8).extractLsb' 0 1 = v := by
  revert v; decide

/-- A 4-bit value leaves `val[7:4]` zero, and is read back from `val[3:0]` (R53). -/
theorem extractLsb'_zeroExtend_nibble (v : BitVec 4) :
    (v.zeroExtend 8).extractLsb' 4 4 = 0 ∧ (v.zeroExtend 8).extractLsb' 0 4 = v := by
  revert v; decide

theorem decodeSetBit_cmdWord (op sel : BitVec 4) (v : BitVec 1) (c : Byte) (mk : Byte → BitVec 1 → Instr) :
    decodeSetBit (cmdWord op sel (v.zeroExtend 8) c) mk = .ok (mk c v) := by
  obtain ⟨hhigh, hlow⟩ := extractLsb'_zeroExtend_bit v
  rw [decodeSetBit, valField_cmdWord, dataField_cmdWord, hhigh, hlow, if_neg (not_not_intro rfl)]

theorem decodeSetFc_cmdWord (op sel v : BitVec 4) (c : Byte) :
    decodeSetFc (cmdWord op sel (v.zeroExtend 8) c) = .ok (.setFc c v) := by
  obtain ⟨hhigh, hlow⟩ := extractLsb'_zeroExtend_nibble v
  rw [decodeSetFc, valField_cmdWord, dataField_cmdWord, hhigh, hlow, if_neg (not_not_intro rfl)]

/-! ### Whole transactions -/

theorem decode_feed (b : Byte) (f : Frame) : decode (.command (cmdWord 0x1 0x0 0 b) f) = .ok (.feed b) :=
  (decodeCommand_of_feed f (by simp)).trans (decodeByteOperand_cmdWord 0x1 b .feed)

/-- A SET word whose selector picks a row with a 1-bit value (R52) spells that row's setter. -/
theorem decode_setBit {sel : BitVec 4} {mk : Byte → BitVec 1 → Instr} (c : Byte) (v : BitVec 1)
    (hrow : decodeSet (cmdWord 0x6 sel (v.zeroExtend 8) c) = decodeSetBit (cmdWord 0x6 sel (v.zeroExtend 8) c) mk)
    (f : Frame) : decode (.command (cmdWord 0x6 sel (v.zeroExtend 8) c) f) = .ok (mk c v) :=
  (decodeCommand_of_set f (by simp)).trans (hrow.trans (decodeSetBit_cmdWord 0x6 sel v c mk))

theorem decodeWire_fixed (c a cs e : Byte) :
    decodeWire [Config.startFixed, c, a, cs, e] = .ok (.frameFixed c a cs e) := rfl

/-- The length byte at index 1 says how many bytes follow the repeated start byte (R65). -/
theorem decodeWire_variable {l0 : Byte} {body : List Byte} (h : body.length = l0.toNat + 2) (l1 m : Byte) :
    decodeWire (Config.startVar :: l0 :: l1 :: m :: body) = .ok (.frameVariable l0 l1 m body) := by
  simp [decodeWire, h]

/-- Bytes that spell a wire frame are that frame. -/
theorem decode_wire {bytes : List Byte} {i : Instr} (h : decodeWire bytes = .ok i) : decode (.wire bytes) = .ok i := by
  simp [decode, h]

theorem decode_encode {i : Instr} (hi : i.wellFormed = true) : decode (encode i) = .ok i := by
  cases i with
  | feed b => exact decode_feed b Frame.zero
  | reset | status | toFrame | encode | hasPayload => simpa [encode, decode, decodeCommand] using decodeBare_cmdWord _ _
  | getDir | getPrm | getFcb | getFcv | getAcd | getDfc | getFc | view =>
    refine (decodeCommand_of_get _ (by simp)).trans ?_
    simp [decodeGet]
  | setDir c v | setPrm c v | setFcb c v | setFcv c v | setAcd c v | setDfc c v =>
    exact decode_setBit c v (by simp [decodeSet]) Frame.zero
  | setFc c v =>
    refine (decodeCommand_of_set _ (by simp)).trans (Eq.trans ?_ (decodeSetFc_cmdWord 0x6 0x6 v c))
    simp [decodeSet]
  | decode => rfl
  | frameFixed c a cs e => exact decode_wire (decodeWire_fixed c a cs e)
  | frameVariable l0 l1 m body => exact decode_wire (decodeWire_variable (eq_of_beq hi) l1 m)

/-- Settles O3: the fields of the encoded word are the operands, group by group. -/
theorem decodeOfEncodeIsTheCommand : Obligations.DecodeOfEncodeIsTheCommand := fun _ => decode_encode

/-- Bits that are some command's encoding spell that command. -/
theorem decodeTableWord_of_encode {nbits w : Nat} {i : Instr} (hi : i.wellFormed = true)
    (hw : tableRequest nbits w = encode i) : decodeTableWord nbits w = some i := by
  rw [decodeTableWord, hw, decode_encode hi]
  rfl

/-- Settles O2: each word written out is the encoding of its command; SET has no row 7. -/
theorem writtenOutWordsDecode : Obligations.WrittenOutWordsDecode := by
  refine ⟨?_, ?_, ?_, ?_, ?_, ?_, ?_, ?_, rfl⟩ <;> exact decodeTableWord_of_encode rfl (by decide)

end Sys2Proof
end

section
/-!
SUPPORT. Reserved command words (30_encoding R55): which words of each group the decoder refuses.
-/
namespace Sys2Proof

/-! ### The fields as numbers (R50) -/

theorem toNat_opField (w : CmdWord) : (opField w).toNat = w.toNat / 2 ^ 20 := by
  have hw := w.isLt
  rw [opField, BitVec.extractLsb'_toNat, Nat.shiftRight_eq_div_pow]
  omega

theorem toNat_selField (w : CmdWord) : (selField w).toNat = w.toNat / 2 ^ 16 % 16 := by
  rw [selField, BitVec.extractLsb'_toNat, Nat.shiftRight_eq_div_pow]

theorem toNat_valField (w : CmdWord) : (valField w).toNat = w.toNat / 2 ^ 8 % 256 := by
  rw [valField, BitVec.extractLsb'_toNat, Nat.shiftRight_eq_div_pow]

theorem toNat_dataField (w : CmdWord) : (dataField w).toNat = w.toNat % 256 := by
  rw [dataField, BitVec.extractLsb'_toNat, Nat.shiftRight_zero]

theorem field_ne_zero_iff {n : Nat} (x : BitVec n) : x ≠ 0 ↔ x.toNat ≠ 0 := not_congr BitVec.toNat_inj.symm

/-- `val[7:1]` is not 0 exactly when `val` is no 1-bit number. -/
theorem val_exceeds_bit_iff (val : Byte) : val.extractLsb' 1 7 ≠ 0 ↔ 2 ≤ val.toNat := by
  have hval := val.isLt
  rw [field_ne_zero_iff, BitVec.extractLsb'_toNat, Nat.shiftRight_eq_div_pow]
  omega

/-- `val[7:4]` is not 0 exactly when `val` is no 4-bit number. -/
theorem val_exceeds_nibble_iff (val : Byte) : val.extractLsb' 4 4 ≠ 0 ↔ 16 ≤ val.toNat := by
  have hval := val.isLt
  rw [field_ne_zero_iff, BitVec.extractLsb'_toNat, Nat.shiftRight_eq_div_pow]
  omega

/-! ### Which words each group refuses -/

/-- The decoder gives no command. -/
def Refuses (x : Except DecodeError Instr) : Prop := ∃ e, x = .error e

theorem refuses_error (e : DecodeError) : Refuses (.error e) := ⟨e, rfl⟩

theorem refuses_ok_iff (i : Instr) : Refuses (.ok i) ↔ False := ⟨nofun, nofun⟩

/-- A check refuses the word, or leaves it to what follows. -/
theorem refuses_check_iff (c : Prop) [Decidable c] (e : DecodeError) (x : Except DecodeError Instr) :
    Refuses (if c then .error e else x) ↔ c ∨ Refuses x := by
  by_cases hc : c <;> simp [hc, refuses_error]

section Groups
variable (w : CmdWord)

theorem refuses_decodeByteOperand (mk : Byte → Instr) :
    Refuses (decodeByteOperand w mk) ↔ (selField w).toNat ≠ 0 ∨ (valField w).toNat ≠ 0 := by
  rw [decodeByteOperand, refuses_check_iff, refuses_check_iff, refuses_ok_iff, or_false,
    field_ne_zero_iff, field_ne_zero_iff]

theorem refuses_decodeBare (i : Instr) :
    Refuses (decodeBare w i) ↔ (selField w).toNat ≠ 0 ∨ (valField w).toNat ≠ 0 ∨ (dataField w).toNat ≠ 0 := by
  rw [decodeBare, refuses_check_iff, refuses_check_iff, refuses_check_iff, refuses_ok_iff, or_false,
    field_ne_zero_iff, field_ne_zero_iff, field_ne_zero_iff]

theorem refuses_decodeGet : Refuses (decodeGet w) ↔ 8 ≤ (selField w).toNat ∨ (valField w).toNat ≠ 0 := by
  rw [decodeGet, refuses_check_iff, refuses_check_iff, field_ne_zero_iff]
  split <;> rw [refuses_ok_iff, or_false]

theorem refuses_decodeSetBit (mk : Byte → BitVec 1 → Instr) :
    Refuses (decodeSetBit w mk) ↔ 2 ≤ (valField w).toNat := by
  rw [decodeSetBit, refuses_check_iff, refuses_ok_iff, or_false, val_exceeds_bit_iff]

theorem refuses_decodeSetFc : Refuses (decodeSetFc w) ↔ 16 ≤ (valField w).toNat := by
  rw [decodeSetFc, refuses_check_iff, refuses_ok_iff, or_false, val_exceeds_nibble_iff]

theorem refuses_decodeSet : Refuses (decodeSet w) ↔
    7 ≤ (selField w).toNat ∨ ((selField w).toNat ≤ 5 ∧ 2 ≤ (valField w).toNat) ∨
      ((selField w).toNat = 6 ∧ 16 ≤ (valField w).toNat) := by
  unfold decodeSet
  split
  case h_7 => rw [refuses_decodeSetFc]; omega -- SET.FC
  case h_8 => exact iff_of_true (refuses_error _) (by simp only [imp_false] at *; omega) -- no row has this selector
  all_goals rw [refuses_decodeSetBit]; omega

end Groups

/-- R55's conditions on the four fields of a word, read as numbers. -/
def ReservedFields (op sel val data : Nat) : Prop :=
  (op = 0 ∨ 9 ≤ op) ∨ (op = 5 ∧ 8 ≤ sel) ∨ (op = 6 ∧ 7 ≤ sel) ∨
  (op ≠ 5 ∧ op ≠ 6 ∧ sel ≠ 0) ∨ (op ≠ 6 ∧ val ≠ 0) ∨
  (op = 6 ∧ sel ≤ 5 ∧ 2 ≤ val) ∨ (op = 6 ∧ sel = 6 ∧ 16 ≤ val) ∨
  (op ≠ 1 ∧ op ≠ 5 ∧ op ≠ 6 ∧ data ≠ 0)

theorem refuses_decodeCommand (w : CmdWord) (f : Frame) : Refuses (decodeCommand w f) ↔
    ReservedFields (opField w).toNat (selField w).toNat (valField w).toNat (dataField w).toNat := by
  unfold decodeCommand ReservedFields
  split
  case h_1 => rw [refuses_decodeByteOperand]; omega -- FEED
  case h_5 => rw [refuses_decodeGet]; omega -- GET and VIEW
  case h_6 => rw [refuses_decodeSet]; omega -- SET
  case h_9 => exact iff_of_true (refuses_error _) (by simp only [imp_false] at *; omega) -- no group has this `op`
  all_goals rw [refuses_decodeBare]; omega

end Sys2Proof

namespace Sys2Proof.Machine

/-- In the admitted configuration FEED accepts its byte or holds it. -/
theorem execFeed_next_responses {b : Byte} {s t : State} (ha : s.admitted) (h : execFeed b s = .next t) :
    t.responses = Response.okData 0x01 :: s.responses ∨ t.responses = Response.held :: s.responses := by
  by_cases hd : s.parser.st = .done
  · rw [execFeed_held hd, State.answer_admitted ha] at h
    cases h
    exact .inr rfl
  · rw [execFeed_consumed hd] at h
    obtain ⟨-, -, rfl⟩ | ⟨hn, -⟩ := State.completeParser_next h
    · exact .inl rfl
    · exact absurd ha hn

/-- Settles O4: the refusals of each group put together, and a FEED word refused by none of them. -/
theorem reservedWordsAreExactlyThoseRefused : Obligations.ReservedWordsAreExactlyThoseRefused := by
  refine ⟨fun w f => ?_, fun s q rest e hp hd => ⟨_, step_of_reserved hp hd, _, rfl, rfl, rfl⟩, decode_feed,
    fun b s t => execFeed_next_responses⟩
  rw [← toNat_opField, ← toNat_selField, ← toNat_valField, ← toNat_dataField]
  exact refuses_decodeCommand w f

end Sys2Proof.Machine
end

section
/-!
SUPPORT. The response format (30_encoding R56, R57): which responses each command gives in the admitted configuration.
-/
namespace Sys2Proof.Machine

/-- A response to the command `i` in the format of R57, where ADDR_BYTES is 1: NONE and HOLD carry 0x00, it is not REFUSED, a Frame
comes with an OK TOFRAME only and bytes with an OK ENCODE only, either with rdata 0x00. -/
structure Response.Fits (r : Response) (i : Instr) : Prop where
  empty : r.outcome = .none ∨ r.outcome = .hold → r.rdata = 0x00
  not_refused : r.outcome ≠ .refused
  frame : r.frameOut.isSome ↔ i = .toFrame ∧ r.outcome = .ok
  bytes : r.bytesOut.isSome ↔ (∃ f, i = .encode f) ∧ r.outcome = .ok
  bundle : r.frameOut.isSome ∨ r.bytesOut.isSome → r.rdata = 0x00

/-- The commands that may return a bundle (R56). -/
def returnsBundle : Instr → Bool
  | .toFrame | .encode _ => true
  | _ => false

theorem returnsBundle_eq_false_iff {i : Instr} :
    returnsBundle i = false ↔ i ≠ .toFrame ∧ ∀ f, i ≠ .encode f := by
  cases i <;> simp [returnsBundle]

/-! ### The responses of R57 -/

theorem Response.Fits.okData {i : Instr} (hi : returnsBundle i = false) (d : Byte) :
    (Response.okData d).Fits i where
  empty := by simp [Response.okData]
  not_refused := nofun
  frame := by
    obtain ⟨hf, -⟩ := returnsBundle_eq_false_iff.mp hi
    simp [Response.okData, hf]
  bytes := by
    obtain ⟨-, he⟩ := returnsBundle_eq_false_iff.mp hi
    simp [Response.okData, he]
  bundle := by simp [Response.okData]

theorem Response.Fits.absent (i : Instr) : Response.absent.Fits i where
  empty _ := rfl
  not_refused := nofun
  frame := by simp [Response.absent]
  bytes := by simp [Response.absent]
  bundle _ := rfl

theorem Response.Fits.held (i : Instr) : Response.held.Fits i where
  empty _ := rfl
  not_refused := nofun
  frame := by simp [Response.held]
  bytes := by simp [Response.held]
  bundle _ := rfl

theorem Response.Fits.faulted (i : Instr) (c : FaultCode) : (Response.faulted c).Fits i where
  empty := by simp [Response.faulted]
  not_refused := nofun
  frame := by simp [Response.faulted]
  bytes := by simp [Response.faulted]
  bundle := by simp [Response.faulted]

theorem Response.Fits.okFrame (f : Frame) : (Response.okFrame f).Fits .toFrame where
  empty _ := rfl
  not_refused := nofun
  frame := by simp [Response.okFrame]
  bytes := by simp [Response.okFrame]
  bundle _ := rfl

theorem Response.Fits.okBytes (bs : List Byte) (f : Frame) : (Response.okBytes bs).Fits (.encode f) where
  empty _ := rfl
  not_refused := nofun
  frame := by simp [Response.okBytes]
  bytes := by simp [Response.okBytes]
  bundle _ := rfl

theorem Response.Fits.ofOption {i : Instr} (hi : returnsBundle i = false) (d : Option Byte) :
    (Response.ofOption d).Fits i := by
  cases d with
  | some d => exact .okData hi d
  | none => exact .absent i

/-! ### The responses of each form of command -/

theorem exec_answer_fits {i : Instr} (hi : writesParser i = false) (s : State) :
    ∃ r : Response, exec i s = s.answer r ∧ r.Fits i := by
  cases i with
  | feed | reset | decode | frameFixed | frameVariable => cases hi
  | toFrame =>
    by_cases hc : s.parser.cls = .noError
    · exact ⟨_, execToFrame_ready hc, .okFrame _⟩
    · exact ⟨_, execToFrame_notReady hc, .faulted _ _⟩
  | encode f =>
    simp only [exec, execEncode]
    split
    · exact ⟨_, rfl, .okBytes _ f⟩
    · exact ⟨_, rfl, .faulted _ _⟩
  | status | view | hasPayload => exact ⟨_, rfl, .okData rfl _⟩
  | _ => exact ⟨_, rfl, .ofOption rfl _⟩

/-- The response of a command that is no chunk. -/
theorem exec_next_fits {i : Instr} {s t : State} (ha : s.admitted) (hi : fedBytes i = none) (h : exec i s = .next t) :
    ∃ r : Response, t.responses = r :: s.responses ∧ r.Fits i := by
  obtain hw | ⟨b, rfl⟩ | rfl | ⟨bs, hf⟩ := instr_form_cases i
  · obtain ⟨r, hr, hfits⟩ := exec_answer_fits hw s
    rw [hr, State.answer_admitted ha] at h
    cases h
    exact ⟨r, rfl, hfits⟩
  · obtain hr | hr := execFeed_next_responses ha h
    · exact ⟨_, hr, .okData rfl _⟩
    · exact ⟨_, hr, .held _⟩
  · obtain ⟨-, -, rfl⟩ | ⟨hn, -⟩ := State.completeParser_next h
    · exact ⟨_, rfl, .okData rfl _⟩
    · exact absurd ha hn
  · rw [hi] at hf; cases hf

/-- The responses of a chunk: OK 0x01 and HOLD. -/
theorem State.afterChunk_responses_mem (s : State) (bs : List Byte) (n : Nat) :
    ∃ rs, (s.afterChunk bs n).responses = rs ++ s.responses ∧ ∀ r ∈ rs, r = Response.okData 0x01 ∨ r = Response.held := by
  refine ⟨_, rfl, fun r hr => ?_⟩
  obtain hr | hr := List.mem_append.mp hr
  · split at hr
    · exact .inr (List.mem_singleton.mp hr)
    · cases hr
  · exact .inl (List.eq_of_mem_replicate hr)

/-- They fit every command that is a chunk. -/
theorem Response.Fits.chunk {i : Instr} {bs : List Byte} (hi : fedBytes i = some bs) {r : Response}
    (hr : r = .okData 0x01 ∨ r = .held) : r.Fits i := by
  obtain rfl | rfl := hr
  · exact .okData (returnsBundle_eq_false_iff.mpr ⟨(by rintro rfl; cases hi), (by rintro f rfl; cases hi)⟩) _
  · exact .held i

/-- Settles O14: one response that fits, or a chunk's. -/
theorem responseFormat : Obligations.ResponseFormat := by
  refine ⟨⟨rfl, rfl, rfl, rfl, rfl⟩, fun i s t ha h => ?_⟩
  cases hi : fedBytes i with
  | none =>
    obtain ⟨r, hr, hfits⟩ := exec_next_fits ha hi h
    refine ⟨[r], hr, fun _ => rfl, fun q hq => ?_⟩
    obtain rfl := List.mem_singleton.mp hq
    exact ⟨hfits.empty, hfits.not_refused, hfits.frame, hfits.bytes, hfits.bundle, nofun⟩
  | some bs =>
    rw [exec_feedChunk hi] at h
    rw [State.feedChunk_next_admitted ha h]
    obtain ⟨rs, hrs, hmem⟩ := s.afterChunk_responses_mem bs 0
    refine ⟨rs, hrs, nofun, fun r hr => ?_⟩
    have hfits := Response.Fits.chunk hi (hmem r hr)
    exact ⟨hfits.empty, hfits.not_refused, hfits.frame, hfits.bytes, hfits.bundle, fun _ => hmem r hr⟩

end Sys2Proof.Machine
end

section
/-!
SUPPORT. Wire frames (30_encoding R62, R63) offered to the parser part by part: start and length pair, control and address byte,
payload, checksum and end byte.
-/
namespace Sys2Proof.Machine

/-! ### The parts of a frame -/

/-- Two parts one after the other. -/
theorem offerBytes_append_of {p q r : ParserRegs} {xs ys : List Byte} {m n : Nat} (hx : offerBytes p xs = (q, m))
    (hy : offerBytes q ys = (r, n)) : offerBytes p (xs ++ ys) = (r, m + n) := by
  rw [offerBytes_append, hx, hy]

/-- The control and the address byte on the variable path. -/
theorem offerBytes_variable_header {p : ParserRegs} (hs : p.st = .awaitControl) (hk : p.kind = .variable) (c a : Byte) :
    offerBytes p [c, a] = ({ p with ctrl := c, addr := a, st := .awaitPayload }, 2) := by
  have hs' : (feedAwaitControl p c).st = .awaitAddress := rfl
  rw [offerBytes_cons (by simp [hs]), feedByte_awaitControl hs, offerBytes_cons (by simp [hs']), feedByte_awaitAddress hs',
    feedAwaitAddress_variable (p := feedAwaitControl p c) hk]
  rfl

/-- The payload: with `len0 − 2` bytes in all the buffer is complete, and the last of them ends AwaitPayload (R104). -/
theorem offerBytes_payload {p : ParserRegs} {bs : List Byte} (hs : p.st = .awaitPayload) (hbs : bs ≠ [])
    (hlen : p.pbuf.length + bs.length + 2 = p.len0.toNat) :
    offerBytes p bs = ({ p with pbuf := p.pbuf ++ bs, st := .awaitChecksum }, bs.length) := by
  induction bs generalizing p with
  | nil => exact absurd rfl hbs
  | cons b bs ih =>
    rw [List.length_cons] at hlen
    rw [offerBytes_cons (by simp [hs]), feedByte_awaitPayload hs]
    cases bs with
    | nil => rw [feedAwaitPayload_last (by simpa using hlen)]; rfl
    | cons b' bs =>
      have hmore : p.pbuf.length + 3 ≠ p.len0.toNat := by rw [List.length_cons] at hlen; omega
      rw [feedAwaitPayload_more hmore, ih (p := p.pbufAppend b) hs (List.cons_ne_nil _ _)]
      · simp [ParserRegs.pbufAppend]
      · rw [ParserRegs.pbufAppend_pbuf, ParserRegs.pbufAppend_len0, List.length_append, List.length_singleton]
        omega

/-- The checksum and the end byte. -/
theorem offerBytes_trailer {p : ParserRegs} (hs : p.st = .awaitChecksum) (cs e : Byte) :
    offerBytes p [cs, e] = (feedAwaitEnd { p with csrx := cs, st := .awaitEnd } e, 2) := by
  rw [offerBytes_cons (by simp [hs]), feedByte_awaitChecksum hs]
  rfl

/-- A variable frame's bytes after its repeated start byte. -/
theorem offerBytes_variable_body {p : ParserRegs} {payload : List Byte} (hs : p.st = .awaitControl)
    (hk : p.kind = .variable) (hb : p.pbuf = []) (hpayload : payload ≠ []) (hlen : payload.length + 2 = p.len0.toNat)
    (c a cs e : Byte) :
    offerBytes p ([c, a] ++ payload ++ [cs, e]) =
      (feedAwaitEnd { p with ctrl := c, addr := a, pbuf := payload, csrx := cs, st := .awaitEnd } e,
        payload.length + 4) := by
  have hheader := offerBytes_variable_header hs hk c a
  have hfill := offerBytes_payload (p := { p with ctrl := c, addr := a, st := .awaitPayload }) rfl hpayload
    (by simpa [hb] using hlen)
  have hframe := offerBytes_append_of (offerBytes_append_of hheader hfill) (offerBytes_trailer rfl cs e)
  simpa [hb, Nat.add_comm 2, Nat.add_assoc] using hframe

/-! ### Whole frames from the reset registers -/

theorem offerBytes_fixed_frame (c a cs e : Byte) :
    offerBytes ParserRegs.reset [Config.startFixed, c, a, cs, e] =
      (feedAwaitEnd { ParserRegs.reset with ctrl := c, addr := a, csrx := cs, st := .awaitEnd } e, 5) := rfl

/-- The registers when the repeated start byte of a variable frame is awaited. -/
def ParserRegs.atRepeatedStart (l0 l1 : Byte) : ParserRegs :=
  { ParserRegs.reset with st := .awaitRepeatedStart, kind := .variable, len0 := l0, len1 := l1 }

theorem offerBytes_variable_start (l0 l1 m : Byte) (body : List Byte) :
    offerBytes ParserRegs.reset (Config.startVar :: l0 :: l1 :: m :: body) =
      ((offerBytes (feedAwaitRepeatedStart (.atRepeatedStart l0 l1) m) body).1,
        (offerBytes (feedAwaitRepeatedStart (.atRepeatedStart l0 l1) m) body).2 + 4) := rfl

/-- R101 fails: the parser is in Done after the fourth byte. -/
theorem offerBytes_rejected_frame {l0 l1 m : Byte} (h : m ≠ 0x68 ∨ l0 ≠ l1 ∨ l0.toNat < 3) (body : List Byte) :
    offerBytes ParserRegs.reset (Config.startVar :: l0 :: l1 :: m :: body) =
      ((ParserRegs.atRepeatedStart l0 l1).enterDone .badFormat, 4) := by
  have hbad : ¬ repeatedStartOk (.atRepeatedStart l0 l1) m = true := by
    rw [repeatedStartOk_iff]
    rintro ⟨hm, hl, hmin⟩
    obtain h | h | h := h
    · exact h hm
    · exact h hl
    · exact absurd hmin (Nat.not_le.mpr h)
  rw [offerBytes_variable_start, feedAwaitRepeatedStart, if_neg hbad, offerBytes_done rfl]

/-- R101 passes, and L is the length of the rest: every byte is consumed. -/
theorem offerBytes_variable_frame {l : Byte} {payload : List Byte} (hmin : 3 ≤ l.toNat)
    (hlen : payload.length = l.toNat - 2) (c a cs e : Byte) :
    offerBytes ParserRegs.reset (Config.startVar :: l :: l :: 0x68 :: ([c, a] ++ payload ++ [cs, e])) =
      (feedAwaitEnd { ParserRegs.atRepeatedStart l l with
        ctrl := c, addr := a, pbuf := payload, csrx := cs, st := .awaitEnd } e, l.toNat + 6) := by
  have hok : repeatedStartOk (.atRepeatedStart l l) 0x68 = true := (repeatedStartOk_iff _ _).mpr ⟨rfl, rfl, hmin⟩
  have hfill : payload.length + 2 = l.toNat := by omega
  have hpayload : payload ≠ [] := List.ne_nil_of_length_pos (by omega)
  rw [offerBytes_variable_start, feedAwaitRepeatedStart, if_pos hok,
    offerBytes_variable_body rfl rfl rfl hpayload hfill, ← hfill]

/-! ### The wire-frame rows -/

/-- In the admitted configuration a chunk completes from the invariant. -/
theorem exec_feedChunk_admitted {i : Instr} {bs : List Byte} {s : State} (hi : fedBytes i = some bs) (ha : s.admitted)
    (hs : s.parser.Inv) : exec i s = .next (s.afterChunk bs 0) := by
  rw [exec_feedChunk hi, State.feedChunk_admitted bs 0 ha (offerBytes_inv hs bs).pbuf_length_le]

/-- A chunk command from the reset registers, where it is known what its bytes make of them. -/
theorem exec_feedChunk_reset {i : Instr} {bs : List Byte} {s : State} {p : ParserRegs} {k : Nat}
    (hi : fedBytes i = some bs) (ha : s.admitted) (hs : s.parser = ParserRegs.reset)
    (hp : offerBytes ParserRegs.reset bs = (p, k)) :
    exec i s = .next { s with
      parser := p
      responses := (if k < bs.length then [Response.held] else []) ++ List.replicate k (Response.okData 0x01) ++ s.responses
      counts := k :: s.counts } := by
  rw [exec_feedChunk_admitted hi ha (hs ▸ ParserRegs.inv_reset)]
  simp [State.afterChunk, hs, hp]

/-- The end byte's classification on the fixed path, the sum written out. -/
theorem endClass_fixed {p : ParserRegs} (hb : p.pbuf = []) (e : Byte) :
    endClass p e = if e ≠ 0x16 then .badFormat
      else if (p.ctrl.toNat + p.addr.toNat) % 256 ≠ p.csrx.toNat then .checkError else .noError := by
  have hsum : cs8 p.ctrl p.addr p.pbuf = p.csrx ↔ (p.ctrl.toNat + p.addr.toNat) % 256 = p.csrx.toNat := by
    rw [← BitVec.toNat_inj, cs8_toNat, hb]
    rfl
  exact if_congr Iff.rfl rfl (if_congr (not_congr hsum) rfl rfl)

/-- Settles O43: a wire-frame row is defined by its FEEDs, which complete from the invariant. -/
theorem wireFramesAreDecodedByFeed : Obligations.WireFramesAreDecodedByFeed :=
  ⟨fun _ _ _ _ _ => rfl, fun _ _ _ _ _ => rfl, fun c a cs e _ _ hs => exec_completes hs (.frameFixed c a cs e),
    fun l0 l1 m body _ _ hs => exec_completes hs (.frameVariable l0 l1 m body)⟩

/-- Settles O44: the five bytes offered to the reset registers. -/
theorem fixedWireFrameFromReset : Obligations.FixedWireFrameFromReset := by
  intro c a cs e s ha hs
  rw [exec_feedChunk_reset rfl ha hs (offerBytes_fixed_frame c a cs e), feedAwaitEnd, endClass_fixed rfl]
  rfl

/-- Settles O45: the frame is rejected by R101's checks, or its parts are consumed one after the other. -/
theorem variableWireFrameFromReset : Obligations.VariableWireFrameFromReset := by
  refine ⟨fun l0 l1 m body s ha hs h => ?_, fun l c a cs e payload s ha hs hmin hlen => ?_⟩
  · rw [exec_feedChunk_reset rfl ha hs (offerBytes_rejected_frame h body)]
    cases body with
    | nil => rfl
    | cons b body => rfl
  · rw [exec_feedChunk_reset rfl ha hs (offerBytes_variable_frame hmin hlen c a cs e), if_neg (by simp; omega)]
    rfl

end Sys2Proof.Machine
end

section
/-!
SUPPORT. The control byte's fields as bits (30_encoding R58, R59): reading a field and replacing it, with the laws the two keep.
-/
namespace Sys2Proof.Machine

/-! ### Reading a field and replacing it -/

/-- The field's bits of a control byte, at the field's own width. -/
def CtrlField.bits (f : CtrlField) (c : Byte) : BitVec f.width := c.extractLsb' f.shift f.width

/-- The control byte with the field's bits replaced, whatever its context. -/
def CtrlField.replace (f : CtrlField) (c : Byte) (v : BitVec f.width) : Byte :=
  (c &&& ~~~f.mask) ||| (v.zeroExtend 8 <<< f.shift)

/-- FC's shift is 0. -/
theorem CtrlField.replace_fc (c : Byte) (v : BitVec 4) :
    CtrlField.fc.replace c v = (c &&& ~~~0x0F#8) ||| v.zeroExtend 8 :=
  congrArg (c &&& ~~~0x0F#8 ||| ·) (BitVec.shiftLeft_zero _)

theorem CtrlField.shift_add_width_le (f : CtrlField) : f.shift + f.width ≤ 8 := by cases f <;> decide

/-- R59's masks cover the `width` bits from `shift` on. -/
theorem CtrlField.getLsbD_mask (f : CtrlField) {i : Nat} (hi : i < 8) :
    f.mask.getLsbD i = decide (f.shift ≤ i ∧ i < f.shift + f.width) := by
  revert i
  cases f <;> decide

theorem CtrlField.getLsbD_replace (f : CtrlField) (c : Byte) (v : BitVec f.width) {i : Nat} (hi : i < 8) :
    (f.replace c v).getLsbD i = if f.mask.getLsbD i then v.getLsbD (i - f.shift) else c.getLsbD i := by
  rw [CtrlField.replace, BitVec.zeroExtend_eq_setWidth, BitVec.getLsbD_or, BitVec.getLsbD_and, BitVec.getLsbD_not,
    BitVec.getLsbD_shiftLeft, BitVec.getLsbD_setWidth, f.getLsbD_mask hi]
  by_cases hin : f.shift ≤ i ∧ i < f.shift + f.width
  · have hbyte : i - f.shift < 8 := by omega
    simp [hin, hi, hbyte]
  · have hout : i < f.shift ∨ f.width ≤ i - f.shift := by omega
    obtain hlow | hhigh := hout
    · simp [hin, hi, hlow]
    · simp [hin, hi, BitVec.getLsbD_of_ge v _ hhigh]

theorem CtrlField.getLsbD_replace_unmasked (f : CtrlField) (c : Byte) (v : BitVec f.width) {i : Nat} (hi : i < 8)
    (hm : f.mask.getLsbD i = false) : (f.replace c v).getLsbD i = c.getLsbD i := by
  simp only [f.getLsbD_replace c v hi, hm, Bool.false_eq_true, if_false]

/-- What GET computes is the field's bits (R57, R59). -/
theorem CtrlField.mask_shift_eq_bits (f : CtrlField) (c : Byte) : (c &&& f.mask) >>> f.shift = (f.bits c).zeroExtend 8 := by
  have hfit := f.shift_add_width_le
  rw [BitVec.zeroExtend_eq_setWidth]
  apply BitVec.eq_of_getLsbD_eq
  intro i hi
  by_cases hin : f.shift + i < 8
  · simp [CtrlField.bits, f.getLsbD_mask hin, hi, Bool.and_comm]
  · have hw : ¬ i < f.width := by omega
    simp [CtrlField.bits, hw, BitVec.getLsbD_of_ge c _ (Nat.le_of_not_lt hin)]

/-! ### The laws of `bits` and `replace` -/

theorem CtrlField.bits_replace (f : CtrlField) (c : Byte) (v : BitVec f.width) : f.bits (f.replace c v) = v := by
  have hfit := f.shift_add_width_le
  apply BitVec.eq_of_getLsbD_eq
  intro i hi
  have hbit : f.shift + i < 8 := by omega
  simp [CtrlField.bits, f.getLsbD_replace c v hbit, f.getLsbD_mask hbit, hi]

theorem CtrlField.replace_bits (f : CtrlField) (c : Byte) : f.replace c (f.bits c) = c := by
  apply BitVec.eq_of_getLsbD_eq
  intro i hi
  rw [f.getLsbD_replace c _ hi, f.getLsbD_mask hi]
  split_ifs with hin
  · obtain ⟨hshift, hend⟩ := of_decide_eq_true hin
    have hlow : i - f.shift < f.width := by omega
    simp [CtrlField.bits, hlow, Nat.add_sub_cancel' hshift]
  · rfl

theorem CtrlField.replace_replace (f : CtrlField) (c : Byte) (v w : BitVec f.width) :
    f.replace (f.replace c v) w = f.replace c w := by
  apply BitVec.eq_of_getLsbD_eq
  intro i hi
  simp only [f.getLsbD_replace _ _ hi]
  split_ifs <;> rfl

theorem CtrlField.replace_comm {f g : CtrlField} (hdisj : f.mask &&& g.mask = 0) (c : Byte) (v : BitVec f.width)
    (w : BitVec g.width) : g.replace (f.replace c v) w = f.replace (g.replace c w) v := by
  apply BitVec.eq_of_getLsbD_eq
  intro i hi
  have hbit : (f.mask.getLsbD i && g.mask.getLsbD i) = false := by rw [← BitVec.getLsbD_and, hdisj]; simp
  simp only [f.getLsbD_replace _ _ hi, g.getLsbD_replace _ _ hi]
  split_ifs with hg hf
  · simp [hf, hg] at hbit
  all_goals rfl

theorem CtrlField.replace_outside (f : CtrlField) (c : Byte) (v : BitVec f.width) :
    f.replace c v &&& ~~~f.mask = c &&& ~~~f.mask := by
  apply BitVec.eq_of_getLsbD_eq
  intro i hi
  rw [BitVec.getLsbD_and, BitVec.getLsbD_and, f.getLsbD_replace c v hi]
  cases hm : f.mask.getLsbD i <;> simp [hm]

/-- A value no wider than a byte is recovered from its zero extension. -/
theorem zeroExtend_byte_inj {n : Nat} (hn : n ≤ 8) {v w : BitVec n} (h : v.zeroExtend 8 = w.zeroExtend 8) : v = w := by
  simpa [BitVec.setWidth_setWidth_of_le _ hn] using congrArg (BitVec.setWidth n) h

theorem CtrlField.zeroExtend_inj {f : CtrlField} {v w : BitVec f.width} (h : v.zeroExtend 8 = w.zeroExtend 8) : v = w :=
  zeroExtend_byte_inj ((Nat.le_add_left _ _).trans f.shift_add_width_le) h

end Sys2Proof.Machine
end

section
/-!
SUPPORT. What GET, SET and VIEW answer (40_control_byte R71 to R87): each delivers one response, OK in its context and NONE
outside it.
-/
namespace Sys2Proof.Machine

/-! ### GET and SET of a field -/

theorem getField_eq (f : CtrlField) (c : Byte) :
    getField f c = if f.readable c then some ((f.bits c).zeroExtend 8) else none := by
  rw [getField, f.mask_shift_eq_bits]

theorem setField_eq (f : CtrlField) (c : Byte) (v : BitVec f.width) :
    setField f c v = if f.writable c then some (f.replace c v) else none := rfl

theorem getField_eq_some_iff {f : CtrlField} {c d : Byte} :
    getField f c = some d ↔ f.readable c = true ∧ (f.bits c).zeroExtend 8 = d := by
  rw [getField_eq, Option.ite_none_right_eq_some, Option.some.injEq]

theorem setField_eq_some_iff {f : CtrlField} {c d : Byte} {v : BitVec f.width} :
    setField f c v = some d ↔ f.writable c = true ∧ f.replace c v = d := by
  rw [setField_eq, Option.ite_none_right_eq_some, Option.some.injEq]

/-- A read outside its context: FCB asks for PRM = 1 and FCV = 1, FCV for PRM = 1, ACD and DFC for PRM = 0 (R71). -/
theorem CtrlField.readable_eq_false_iff {f : CtrlField} {c : Byte} :
    f.readable c = false ↔
      (f = .fcb ∧ ¬ (c.getLsbD 6 = true ∧ c.getLsbD 4 = true)) ∨ (f = .fcv ∧ c.getLsbD 6 = false) ∨
      ((f = .acd ∨ f = .dfc) ∧ c.getLsbD 6 = true) := by
  cases f <;> simp [CtrlField.readable, isPrimary, fcvBit]

/-- A write outside its context: FCB and FCV ask for PRM = 1, ACD and DFC for PRM = 0 (R71). -/
theorem CtrlField.writable_eq_false_iff {f : CtrlField} {c : Byte} :
    f.writable c = false ↔
      ((f = .fcb ∨ f = .fcv) ∧ c.getLsbD 6 = false) ∨ ((f = .acd ∨ f = .dfc) ∧ c.getLsbD 6 = true) := by
  cases f <;> simp [CtrlField.writable, isPrimary]

/-- SET acts wherever GET answers; FCB alone is written in more contexts than it is read. -/
theorem CtrlField.writable_of_readable {f : CtrlField} {c : Byte} (h : f.readable c = true) : f.writable c = true := by
  cases f with
  | fcb =>
    obtain ⟨hprm, -⟩ := Bool.and_eq_true_iff.mp h
    exact hprm
  | _ => exact h

/-- Replacing a field other than PRM keeps the context PRM gives. -/
theorem isPrimary_replace {f : CtrlField} (hf : f.mask.getLsbD 6 = false) (c : Byte) (v : BitVec f.width) :
    isPrimary (f.replace c v) = isPrimary c := f.getLsbD_replace_unmasked c v (by decide) hf

theorem fcvBit_replace_fcb (c : Byte) (v : BitVec 1) : fcvBit (CtrlField.fcb.replace c v) = fcvBit c :=
  CtrlField.fcb.getLsbD_replace_unmasked c v (by decide) rfl

/-- Where a SET has acted GET answers, but for FCB with FCV clear. -/
theorem CtrlField.readable_replace {f : CtrlField} {c : Byte} (h : f.writable c = true)
    (hfcb : ¬ (f = .fcb ∧ c.getLsbD 4 = false)) (v : BitVec f.width) : f.readable (f.replace c v) = true := by
  cases f with
  | dir | prm | fc => rfl
  | fcv => exact (isPrimary_replace rfl c v).trans h
  | acd | dfc => exact (congrArg not (isPrimary_replace rfl c v)).trans h
  | fcb =>
    have hfcv : fcvBit c = true := by simpa [fcvBit] using hfcb
    exact Bool.and_eq_true_iff.mpr ⟨(isPrimary_replace rfl c v).trans h, (fcvBit_replace_fcb c v).trans hfcv⟩

theorem CtrlField.readable_replace_fcb {c : Byte} (hfcv : c.getLsbD 4 = false) (v : BitVec 1) :
    CtrlField.fcb.readable (CtrlField.fcb.replace c v) = false :=
  Bool.and_eq_false_iff.mpr (.inr ((fcvBit_replace_fcb c v).trans hfcv))

/-! ### VIEW -/

/-- Bit 6 is the tag, 1 for Primary (R80). -/
theorem tagBit_eq_isPrimary (c : Byte) : c.extractLsb' 6 1 = BitVec.ofBool (isPrimary c) := by
  apply BitVec.eq_of_getLsbD_eq
  intro i hi
  obtain rfl := Nat.lt_one_iff.mp hi
  simp [isPrimary]

/-- VIEW's rdata is bits 6:4 in place. -/
theorem viewOf_rdata (c : Byte) : (viewOf c).rdata = (c.extractLsb' 4 3).zeroExtend 8 := by
  have htag : c.extractLsb' 6 1 ++ c.extractLsb' 5 1 ++ c.extractLsb' 4 1 = c.extractLsb' 4 3 := by
    rw [BitVec.extractLsb'_append_extractLsb'_eq_extractLsb' (show 6 = 5 + 1 from rfl)]
    exact BitVec.extractLsb'_append_extractLsb'_eq_extractLsb' rfl
  rw [← htag, tagBit_eq_isPrimary, viewOf]
  cases isPrimary c <;> rfl

/-- DIR, the view's bits and FC are the whole byte. -/
theorem byte_eq_of_dir_view_fc {c d : Byte} (hdir : c.extractLsb' 7 1 = d.extractLsb' 7 1)
    (hview : c.extractLsb' 4 3 = d.extractLsb' 4 3) (hfc : c.extractLsb' 0 4 = d.extractLsb' 0 4) : c = d := by
  have hparts (b : Byte) : b.extractLsb' 7 1 ++ b.extractLsb' 4 3 ++ b.extractLsb' 0 4 = b := by
    rw [BitVec.extractLsb'_append_extractLsb'_eq_extractLsb' (show 7 = 4 + 3 from rfl)]
    exact BitVec.extractLsb'_append_extractLsb'
  rw [← hparts c, ← hparts d, hdir, hview, hfc]

/-! ### What the commands answer -/

theorem exec_getInstr (f : CtrlField) (c : Byte) (s : State) :
    exec (getInstr f c) s = s.answer (.ofOption (getField f c)) := by
  cases f <;> rfl

theorem exec_setInstr (f : CtrlField) (c : Byte) (v : BitVec f.width) (s : State) :
    exec (setInstr f c v) s = s.answer (.ofOption (setField f c v)) := by
  cases f <;> rfl

theorem exec_view (c : Byte) (s : State) : exec (.view c) s = s.answer (.okData (viewOf c).rdata) := rfl

theorem Response.okData_inj {d e : Byte} : Response.okData d = .okData e ↔ d = e := by simp [Response.okData]

theorem Response.ofOption_eq_okData_iff {o : Option Byte} {d : Byte} : Response.ofOption o = .okData d ↔ o = some d := by
  cases o with
  | none => exact iff_of_false nofun nofun
  | some e => rw [Response.ofOption, Response.okData_inj, Option.some.injEq]

theorem Response.ofOption_eq_absent_iff {o : Option Byte} : Response.ofOption o = .absent ↔ o = none := by
  cases o with
  | none => exact iff_of_true rfl rfl
  | some e => exact iff_of_false nofun nofun

/-- A command that answers gives that response and no other. -/
theorem State.answers_iff {s : State} (ha : s.admitted) {i : Instr} {q : Response} (hi : exec i s = s.answer q)
    (r : Response) : s.answers i r ↔ q = r := by
  rw [State.answers, hi, State.answer_admitted ha]
  simp [State.respond]

section Answers
variable {s : State} (ha : s.admitted) {f : CtrlField} {c d : Byte} {v : BitVec f.width}
include ha

theorem State.answers_get_okData :
    s.answers (getInstr f c) (.okData d) ↔ f.readable c = true ∧ (f.bits c).zeroExtend 8 = d := by
  rw [State.answers_iff ha (exec_getInstr f c s), Response.ofOption_eq_okData_iff, getField_eq_some_iff]

theorem State.answers_get_absent : s.answers (getInstr f c) .absent ↔ f.readable c = false := by
  rw [State.answers_iff ha (exec_getInstr f c s), Response.ofOption_eq_absent_iff, getField]
  simp

theorem State.answers_set_okData :
    s.answers (setInstr f c v) (.okData d) ↔ f.writable c = true ∧ f.replace c v = d := by
  rw [State.answers_iff ha (exec_setInstr f c v s), Response.ofOption_eq_okData_iff, setField_eq_some_iff]

theorem State.answers_set_absent : s.answers (setInstr f c v) .absent ↔ f.writable c = false := by
  rw [State.answers_iff ha (exec_setInstr f c v s), Response.ofOption_eq_absent_iff, setField]
  simp

theorem State.answers_get_bits (h : f.readable c = true) : s.answers (getInstr f c) (.okData ((f.bits c).zeroExtend 8)) :=
  (State.answers_get_okData ha).mpr ⟨h, rfl⟩

theorem State.answers_set_replace (h : f.writable c = true) : s.answers (setInstr f c v) (.okData (f.replace c v)) :=
  (State.answers_set_okData ha).mpr ⟨h, rfl⟩

/-- Two bytes for which GET answers the same agree in the field. -/
theorem State.bits_eq_of_answers {c' : Byte} (h : s.answers (getInstr f c) (.okData d))
    (h' : s.answers (getInstr f c') (.okData d)) : f.bits c = f.bits c' := by
  obtain ⟨-, hd⟩ := (State.answers_get_okData ha).mp h
  obtain ⟨-, hd'⟩ := (State.answers_get_okData ha).mp h'
  exact CtrlField.zeroExtend_inj (hd.trans hd'.symm)

theorem State.answers_view : s.answers (.view c) (.okData d) ↔ (c.extractLsb' 4 3).zeroExtend 8 = d := by
  rw [State.answers_iff ha (exec_view c s), Response.okData_inj, viewOf_rdata]

/-- Two bytes for which VIEW answers the same agree in bits 6:4. -/
theorem State.view_eq_of_answers {c' : Byte} (h : s.answers (.view c) (.okData d))
    (h' : s.answers (.view c') (.okData d)) : c.extractLsb' 4 3 = c'.extractLsb' 4 3 :=
  zeroExtend_byte_inj (by decide) (((State.answers_view ha).mp h).trans ((State.answers_view ha).mp h').symm)

end Answers

end Sys2Proof.Machine
end

section
/-!
SUPPORT. The words of GET, VIEW and SET (30_encoding R52, R53, R55): which command each spells, and which are refused.
-/
namespace Sys2Proof.Machine

/-- The selector of a field's GET and SET rows (R52). -/
def CtrlField.sel : CtrlField → BitVec 4
  | .dir => 0x0
  | .prm => 0x1
  | .fcb => 0x2
  | .fcv => 0x3
  | .acd => 0x4
  | .dfc => 0x5
  | .fc => 0x6

theorem toNat_cmdWord (op sel : BitVec 4) (val data : Byte) :
    (cmdWord op sel val data).toNat = op.toNat * 2 ^ 20 + sel.toNat * 2 ^ 16 + val.toNat * 2 ^ 8 + data.toNat := by
  have happend {m n : Nat} (x : BitVec m) (y : BitVec n) : (x ++ y).toNat = x.toNat * 2 ^ n + y.toNat := by
    rw [BitVec.toNat_append, ← Nat.shiftLeft_add_eq_or_of_lt y.isLt, Nat.shiftLeft_eq]
  rw [cmdWord, happend, happend, happend]
  ring

/-- Adding a byte to a word whose `data` is 0 puts it there. -/
theorem cmdWord_add_data (op sel : BitVec 4) (val c : Byte) :
    cmdWord op sel val 0 + c.zeroExtend 24 = cmdWord op sel val c := by
  have hword := (cmdWord op sel val c).isLt
  have hc : (c.zeroExtend 24).toNat = c.toNat := BitVec.toNat_setWidth_of_le (by decide)
  apply BitVec.eq_of_toNat_eq
  rw [toNat_cmdWord] at hword
  rw [BitVec.toNat_add, hc, toNat_cmdWord, toNat_cmdWord, show BitVec.toNat (0 : Byte) = 0 from rfl, Nat.add_zero]
  exact Nat.mod_eq_of_lt hword

theorem decodeCommand_get (fld : CtrlField) (c : Byte) (f : Frame) :
    decodeCommand (cmdWord 0x5 fld.sel 0 0 + c.zeroExtend 24) f = .ok (getInstr fld c) := by
  rw [cmdWord_add_data, decodeCommand_of_get f (by simp), decodeGet]
  cases fld <;> simp [CtrlField.sel, getInstr]

theorem decodeCommand_view (c : Byte) (f : Frame) :
    decodeCommand (cmdWord 0x5 0x7 0 0 + c.zeroExtend 24) f = .ok (.view c) := by
  rw [cmdWord_add_data, decodeCommand_of_get f (by simp), decodeGet]
  simp

theorem decodeCommand_set (fld : CtrlField) (c : Byte) (v : BitVec fld.width) (f : Frame) :
    decodeCommand (cmdWord 0x6 fld.sel (v.zeroExtend 8) c) f = .ok (setInstr fld c v) := by
  rw [decodeCommand_of_set f (by simp), decodeSet, selField_cmdWord]
  cases fld with
  | fc => exact decodeSetFc_cmdWord _ _ v c
  | _ => exact decodeSetBit_cmdWord _ _ v c _

/-- GET and VIEW take no value. -/
theorem refuses_get_of_val_ne_zero {val : Byte} (hval : val ≠ 0) (sel : BitVec 4) (c : Byte) (f : Frame) :
    Refuses (decodeCommand (cmdWord 0x5 sel val c) f) := by
  rw [decodeCommand_of_get f (by simp), refuses_decodeGet, valField_cmdWord]
  exact .inr ((field_ne_zero_iff val).mp hval)

/-- Only SET.FC takes a value over one bit, and no SET one over four. -/
theorem refuses_set_of_val_wide {sel : BitVec 4} {val : Byte} (hwide : sel ≠ 6 ∧ 2 ≤ val.toNat ∨ 16 ≤ val.toNat)
    (c : Byte) (f : Frame) : Refuses (decodeCommand (cmdWord 0x6 sel val c) f) := by
  rw [decodeCommand_of_set f (by simp), refuses_decodeSet, selField_cmdWord, valField_cmdWord]
  have hsel : sel = 6 ↔ sel.toNat = 6 := BitVec.toNat_inj.symm
  rw [ne_eq, hsel] at hwide
  omega

end Sys2Proof.Machine
end

section
/-!
SUPPORT. The statements of 40_control_byte.
-/
namespace Sys2Proof.Machine

/-! ### The laws of the multiplexer (R71, R72, R88) -/

/-- Settles O52: a command answers OK or NONE as its context decides. -/
theorem prmContextDecidesNone : Obligations.PrmContextDecidesNone := by
  intro fld c s ha readNone writeNone
  have hread : fld.readable c = false ↔ readNone := CtrlField.readable_eq_false_iff
  have hwrite : fld.writable c = false ↔ writeNone := CtrlField.writable_eq_false_iff
  refine ⟨(State.answers_get_absent ha).trans hread, ?_, fun v => ⟨(State.answers_set_absent ha).trans hwrite, ?_⟩,
    _, (State.answers_view ha).mpr rfl⟩
  · simp only [State.answers_get_okData ha, exists_and_left, exists_eq', and_true, ← hread, Bool.not_eq_false]
  · simp only [State.answers_set_okData ha, exists_and_left, exists_eq', and_true, ← hwrite, Bool.not_eq_false]

/-- Settles O53: what an OK SET returns is the operand with the field replaced. -/
theorem setChangesOnlyItsField : Obligations.SetChangesOnlyItsField := by
  intro fld c v s t ha h
  rw [exec_setInstr, State.answer_admitted ha, setField_eq] at h
  cases h
  cases fld.writable c with
  | false => exact .inl rfl
  | true => exact .inr ⟨fld.replace c v, rfl, fld.replace_outside c v, by rw [fld.mask_shift_eq_bits, fld.bits_replace]⟩

/-- Settles O54: the laws of reading and replacing a field, read off the responses. -/
theorem multiplexerLaws : Obligations.MultiplexerLaws := by
  intro s ha
  refine ⟨fun fld c c' v hset => ?_, fun fld c v hget => ?_, fun fld c c' d e v w hv hw he => ?_,
    fun f g c c₁ d₁ c₂ d₂ v w hdisj hf₁ hg₁ hg₂ hf₂ => ?_, fun c c' x y z hx hx' hy hy' hz hz' => ?_⟩
  · obtain ⟨hwrite, rfl⟩ := (State.answers_set_okData ha).mp hset
    refine ⟨fun hne => (State.answers_get_okData ha).mpr ⟨CtrlField.readable_replace hwrite hne v, ?_⟩, ?_⟩
    · rw [fld.bits_replace]
    · rintro ⟨rfl, hfcv⟩
      exact (State.answers_get_absent ha).mpr (CtrlField.readable_replace_fcb hfcv v)
  · obtain ⟨hread, hv⟩ := (State.answers_get_okData ha).mp hget
    obtain rfl := CtrlField.zeroExtend_inj hv
    exact (State.answers_set_okData ha).mpr ⟨CtrlField.writable_of_readable hread, fld.replace_bits c⟩
  · obtain ⟨-, rfl⟩ := (State.answers_set_okData ha).mp hv
    obtain ⟨-, rfl⟩ := (State.answers_set_okData ha).mp hw
    obtain ⟨-, rfl⟩ := (State.answers_set_okData ha).mp he
    exact fld.replace_replace c v w
  · obtain ⟨-, rfl⟩ := (State.answers_set_okData ha).mp hf₁
    obtain ⟨-, rfl⟩ := (State.answers_set_okData ha).mp hg₁
    obtain ⟨-, rfl⟩ := (State.answers_set_okData ha).mp hg₂
    obtain ⟨-, rfl⟩ := (State.answers_set_okData ha).mp hf₂
    exact CtrlField.replace_comm hdisj c v w
  · exact byte_eq_of_dir_view_fc (State.bits_eq_of_answers ha (f := .dir) hy hy') (State.view_eq_of_answers ha hx hx')
      (State.bits_eq_of_answers ha (f := .fc) hz hz')

/-! ### Each command's words and answers (R73 to R87) -/

/-- Settles O46: DIR, PRM and FC are read in every context. -/
theorem unguardedReads : Obligations.UnguardedReads := by
  refine ⟨fun c f => ⟨decodeCommand_get .dir c f, decodeCommand_get .prm c f, decodeCommand_get .fc c f⟩,
    fun sel val c f hval => refuses_get_of_val_ne_zero hval sel c f, fun c s ha => ⟨?_, ?_, ?_⟩⟩
  · exact State.answers_get_bits ha (f := .dir) rfl
  · exact State.answers_get_bits ha (f := .prm) rfl
  · exact State.answers_get_bits ha (f := .fc) rfl

/-- Settles O47: FCB's context asks for both bits. -/
theorem getFcbIsGuardedByPrmAndFcv : Obligations.GetFcbIsGuardedByPrmAndFcv :=
  ⟨decodeCommand_get .fcb, fun _ _ ha => ⟨fun hctx => State.answers_get_bits ha (f := .fcb) (Bool.and_eq_true_iff.mpr hctx),
    fun hctx => (State.answers_get_absent ha (f := .fcb)).mpr (CtrlField.readable_eq_false_iff.mpr (.inl ⟨rfl, hctx⟩))⟩⟩

/-- Settles O48: PRM selects FCV, or ACD and DFC. -/
theorem readsGuardedByPrm : Obligations.ReadsGuardedByPrm := by
  refine ⟨fun c f => ⟨decodeCommand_get .fcv c f, decodeCommand_get .acd c f, decodeCommand_get .dfc c f⟩,
    fun c s ha => ⟨fun hprm => ?_, fun hprm => ?_⟩⟩
  · have hsec : (!isPrimary c) = false := congrArg not hprm
    exact ⟨State.answers_get_bits ha (f := .fcv) hprm, (State.answers_get_absent ha (f := .acd)).mpr hsec,
      (State.answers_get_absent ha (f := .dfc)).mpr hsec⟩
  · have hsec : (!isPrimary c) = true := congrArg not hprm
    exact ⟨(State.answers_get_absent ha (f := .fcv)).mpr hprm, State.answers_get_bits ha (f := .acd) hsec,
      State.answers_get_bits ha (f := .dfc) hsec⟩

/-- Settles O49: the tag is bit 6, so the view's three bits are 6:4. -/
theorem viewTagsBitsFiveAndFour : Obligations.ViewTagsBitsFiveAndFour :=
  ⟨decodeCommand_view, fun _ => rfl, fun _ _ ha => (State.answers_view ha).mpr rfl⟩

/-- Settles O50: DIR, PRM and FC are written in every context; a value the field cannot hold is R55's. -/
theorem unguardedWrites : Obligations.UnguardedWrites := by
  refine ⟨fun c v f => ⟨decodeCommand_set .dir c v f, decodeCommand_set .prm c v f⟩, decodeCommand_set .fc,
    fun sel val c f hwide => refuses_set_of_val_wide hwide c f, fun c v s ha => ⟨?_, ?_⟩, fun c v s ha => ?_⟩
  · exact State.answers_set_replace ha (f := .dir) rfl
  · exact State.answers_set_replace ha (f := .prm) rfl
  · exact CtrlField.replace_fc c v ▸ State.answers_set_replace ha (f := .fc) rfl

/-- Settles O51: PRM selects FCB and FCV, or ACD and DFC. -/
theorem writesGuardedByPrm : Obligations.WritesGuardedByPrm := by
  refine ⟨fun c v f => ⟨decodeCommand_set .fcb c v f, decodeCommand_set .fcv c v f, decodeCommand_set .acd c v f,
    decodeCommand_set .dfc c v f⟩, fun c v s ha => ⟨fun hprm => ?_, fun hprm => ?_⟩⟩
  · have hsec : (!isPrimary c) = false := congrArg not hprm
    exact ⟨State.answers_set_replace ha (f := .fcb) hprm, State.answers_set_replace ha (f := .fcv) hprm,
      (State.answers_set_absent ha (f := .acd)).mpr hsec, (State.answers_set_absent ha (f := .dfc)).mpr hsec⟩
  · have hsec : (!isPrimary c) = true := congrArg not hprm
    exact ⟨(State.answers_set_absent ha (f := .fcb)).mpr hprm, (State.answers_set_absent ha (f := .fcv)).mpr hprm,
      State.answers_set_replace ha (f := .acd) hsec, State.answers_set_replace ha (f := .dfc) hsec⟩

end Sys2Proof.Machine
end

section
/-!
SUPPORT. The words of ENCODE and HASPAYLOAD (30_encoding R51, R55): both are spelled by `op` alone.
-/
namespace Sys2Proof

theorem decodeCommand_of_encode {w : CmdWord} (f : Frame) (h : (opField w).toNat = 7) :
    decodeCommand w f = decodeBare w (.encode f) := by
  simp [decodeCommand, h]

theorem decodeCommand_of_hasPayload {w : CmdWord} (f : Frame) (h : (opField w).toNat = 8) :
    decodeCommand w f = decodeBare w (.hasPayload f) := by
  simp [decodeCommand, h]

theorem decodeCommand_encode (f : Frame) : decodeCommand (cmdWord 0x7 0x0 0 0) f = .ok (.encode f) :=
  (decodeCommand_of_encode f (by simp)).trans (decodeBare_cmdWord 0x7 _)

theorem decodeCommand_hasPayload (f : Frame) : decodeCommand (cmdWord 0x8 0x0 0 0) f = .ok (.hasPayload f) :=
  (decodeCommand_of_hasPayload f (by simp)).trans (decodeBare_cmdWord 0x8 _)

/-- The word of HASPAYLOAD has no operand (R55). -/
theorem refuses_hasPayload_of_operand {sel : BitVec 4} {val data : Byte} (h : sel ≠ 0 ∨ val ≠ 0 ∨ data ≠ 0)
    (f : Frame) : Refuses (decodeCommand (cmdWord 0x8 sel val data) f) := by
  rw [decodeCommand_of_hasPayload f (by simp), refuses_decodeBare, selField_cmdWord, valField_cmdWord, dataField_cmdWord]
  simpa only [field_ne_zero_iff] using h

end Sys2Proof
end

section
/-!
SUPPORT. What ENCODE and HASPAYLOAD answer (41_frame R91, R92): the wire bytes of either kind, their parts by position, and what
the parser makes of them.
-/
namespace Sys2Proof.Machine

/-! ### The Frame's kind (R90) -/

theorem frameKind_eq_fixed_iff {f : Frame} : frameKind f = .fixed ↔ f.payload = [] := by simp [frameKind]

theorem frameKind_eq_variable_iff {f : Frame} : frameKind f = .variable ↔ f.payload ≠ [] := by simp [frameKind]

/-! ### The length byte and the wire bytes (R62, R63, R67) -/

/-- A payload ENCODE accepts leaves its length byte unreduced. -/
theorem lengthByte_toNat {payload : List Byte} (hmax : payload.length ≤ 253) :
    (lengthByte payload).toNat = 2 + payload.length := by
  rw [lengthByte, BitVec.toNat_ofNat]
  exact Nat.mod_eq_of_lt (by omega)

theorem fixedFrameBytes_start (c a : Byte) : (fixedFrameBytes c a)[0]? = some 0x10 := rfl

section VariableFrame
variable (l c a : Byte) (payload : List Byte)

theorem variableFrameBytes_start : (variableFrameBytes l c a payload)[0]? = some 0x68 := rfl

theorem variableFrameBytes_length : (variableFrameBytes l c a payload).length = payload.length + 8 := by
  simp [variableFrameBytes]

theorem variableFrameBytes_getLast? : (variableFrameBytes l c a payload).getLast? = some 0x16 := by
  rw [variableFrameBytes, List.getLast?_append]
  rfl

/-- The checksum follows the six header bytes and the payload. -/
theorem variableFrameBytes_checksum :
    (variableFrameBytes l c a payload)[payload.length + 6]? = some (cs8 c a payload) := by
  have hbody : ([Config.startVar, l, l, Config.startVar, c, a] ++ payload).length = payload.length + 6 := by simp
  rw [variableFrameBytes, ← hbody, List.getElem?_append_right le_rfl, Nat.sub_self]
  rfl

end VariableFrame

/-! ### R92's three cases -/

section Encode
variable {f : Frame}

theorem encodeFrame_tooLong (h : 253 < f.payload.length) : encodeFrame f = .error .encodeTooLong := if_pos h

theorem encodeFrame_fixed (h : f.payload = []) :
    encodeFrame f = .ok (fixedFrameBytes f.ctrl (addressByte f.address)) := by
  simp [encodeFrame, h]

theorem encodeFrame_variable (h : f.payload ≠ []) (hmax : f.payload.length ≤ 253) :
    encodeFrame f = .ok (variableFrameBytes (lengthByte f.payload) f.ctrl (addressByte f.address) f.payload) := by
  rw [encodeFrame, if_neg (Nat.not_lt.mpr hmax), if_neg (mt List.length_eq_zero_iff.mp h)]

/-- Everything ENCODE can answer OK with. -/
theorem encodeFrame_eq_ok {w : List Byte} (h : encodeFrame f = .ok w) :
    (f.payload = [] ∧ w = fixedFrameBytes f.ctrl (addressByte f.address)) ∨
    (f.payload ≠ [] ∧ f.payload.length ≤ 253 ∧
      w = variableFrameBytes (lengthByte f.payload) f.ctrl (addressByte f.address) f.payload) := by
  obtain hlong | hmax := Nat.lt_or_ge 253 f.payload.length
  · rw [encodeFrame_tooLong hlong] at h
    cases h
  · by_cases hp : f.payload = []
    · exact .inl ⟨hp, Except.ok.inj (h.symm.trans (encodeFrame_fixed hp))⟩
    · exact .inr ⟨hp, hmax, Except.ok.inj (h.symm.trans (encodeFrame_variable hp hmax))⟩

/-- ENCODE sees of the address its low byte only (R95). -/
theorem encodeFrame_congr {g : Frame} (hctrl : g.ctrl = f.ctrl) (hpayload : g.payload = f.payload)
    (haddr : addressByte g.address = addressByte f.address) : encodeFrame g = encodeFrame f := by
  rw [encodeFrame, encodeFrame, hctrl, hpayload, haddr]

theorem State.answers_encode {s : State} (ha : s.admitted) {w : List Byte} (h : encodeFrame f = .ok w) :
    s.answers (.encode f) (.okBytes w) := by
  rw [State.answers, exec, execEncode, h]
  exact State.answer_admitted ha _

theorem State.answers_encode_tooLong {s : State} (ha : s.admitted) (h : 253 < f.payload.length) :
    s.answers (.encode f) (.faulted .encodeTooLong) := by
  rw [State.answers, exec, execEncode, encodeFrame_tooLong h]
  exact State.answer_admitted ha _

end Encode

theorem exec_hasPayload (f : Frame) (s : State) :
    exec (.hasPayload f) s = s.answer (.okData (if f.payload = [] then 0x00 else 0x01)) := by
  rw [exec, execHasPayload]
  simp

/-! ### The wire bytes offered to the parser -/

theorem offerBytes_fixedFrameBytes (c a : Byte) :
    offerBytes ParserRegs.reset (fixedFrameBytes c a) =
      (feedAwaitEnd { ParserRegs.reset with ctrl := c, addr := a, csrx := cs8 c a [], st := .awaitEnd } Config.endMark, 5) :=
  offerBytes_fixed_frame c a _ _

theorem offerBytes_variableFrameBytes {payload : List Byte} (hne : payload ≠ []) (hmax : payload.length ≤ 253) (c a : Byte) :
    offerBytes ParserRegs.reset (variableFrameBytes (lengthByte payload) c a payload) =
      (feedAwaitEnd { ParserRegs.atRepeatedStart (lengthByte payload) (lengthByte payload) with
        ctrl := c, addr := a, pbuf := payload, csrx := cs8 c a payload, st := .awaitEnd } Config.endMark,
        payload.length + 8) := by
  have hl := lengthByte_toNat hmax
  have hpos := List.length_pos_of_ne_nil hne
  have hframe := offerBytes_variable_frame (l := lengthByte payload) (payload := payload) (by omega) (by omega) c a
    (cs8 c a payload) Config.endMark
  rw [hl, Nat.add_comm 2, Nat.add_assoc] at hframe
  exact hframe

/-- The parser records of an encoded frame the Frame's own kind. -/
theorem offerBytes_encodeFrame_kind {f : Frame} {w : List Byte} (h : encodeFrame f = .ok w) :
    (offerBytes ParserRegs.reset w).1.kind = frameKind f := by
  obtain ⟨hp, rfl⟩ | ⟨hp, hmax, rfl⟩ := encodeFrame_eq_ok h
  · rw [offerBytes_fixedFrameBytes, frameKind_eq_fixed_iff.mpr hp]
    rfl
  · rw [offerBytes_variableFrameBytes hp hmax, frameKind_eq_variable_iff.mpr hp]
    rfl

end Sys2Proof.Machine
end

section
/-!
SUPPORT. The obligations of the Frame value and its encoder (41_frame R90 to R95).
-/
namespace Sys2Proof.Machine

/-! ### HASPAYLOAD and ENCODE -/

/-- Settles O55: the payload's length is 0 exactly when it is empty. -/
theorem hasPayloadTestsEmptiness : Obligations.HasPayloadTestsEmptiness := by
  refine ⟨decodeCommand_hasPayload, fun sel val data f h => refuses_hasPayload_of_operand h f,
    fun f s ha => ⟨fun hp => ?_, fun hp => ?_⟩⟩
  · rw [exec_hasPayload, if_neg hp, State.answer_admitted ha]
  · rw [exec_hasPayload, if_pos hp, State.answer_admitted ha]

/-- Settles O56: R92's three cases, the sum reduced once. -/
theorem encodeGivesTheWireBytes : Obligations.EncodeGivesTheWireBytes := by
  refine ⟨decodeCommand_encode, fun f s ha => ?_⟩
  intro c a l cs
  have hcs : cs8 c a f.payload = cs := by
    apply BitVec.eq_of_toNat_eq
    rw [cs8_toNat]
    simp [cs]
  refine ⟨fun hlong => ⟨_, State.answers_encode_tooLong ha hlong, rfl, rfl⟩, fun hp => ?_,
    fun hp hmax => ⟨lengthByte_toNat hmax, ?_⟩⟩
  · rw [← hcs, hp]
    exact State.answers_encode ha (encodeFrame_fixed hp)
  · rw [← hcs]
    exact State.answers_encode ha (encodeFrame_variable hp hmax)

/-- Settles O57: the laws of each kind's bytes, by position. -/
theorem encodeLaws : Obligations.EncodeLaws := by
  intro f s ha hmax
  have hlow {w : List Byte} (henc : encodeFrame f = .ok w) (g : Frame) (hctrl : g.ctrl = f.ctrl)
      (hpayload : g.payload = f.payload) (haddr : addressByte g.address = addressByte f.address) :
      s.answers (.encode g) (.okBytes w) :=
    State.answers_encode ha ((encodeFrame_congr hctrl hpayload haddr).trans henc)
  by_cases hp : f.payload = []
  · have henc := encodeFrame_fixed hp
    refine ⟨_, State.answers_encode ha henc, iff_of_true (fixedFrameBytes_start ..) hp, absurd hp, rfl, (if_pos hp).symm,
      fun _ => ?_, absurd hp, hlow henc⟩
    rw [hp]
    rfl
  · have henc := encodeFrame_variable hp hmax
    have hl := lengthByte_toNat hmax
    have hpos := List.length_pos_of_ne_nil hp
    refine ⟨_, State.answers_encode ha henc, iff_of_false (by simp [variableFrameBytes_start]) hp, fun _ => ⟨rfl, rfl⟩,
      variableFrameBytes_getLast? .., (variableFrameBytes_length ..).trans (if_neg hp).symm, fun h => absurd h hp,
      fun _ => ⟨lengthByte f.payload, rfl, rfl, by omega, ?_⟩, hlow henc⟩
    rw [show (lengthByte f.payload).toNat + 4 = f.payload.length + 6 by omega]
    exact variableFrameBytes_checksum ..

/-! ### The Frame's kind -/

/-- Settles O58: the two kinds' bytes begin differently, and the start byte fixes the parser's `kind`. -/
theorem frameKindFollowsThePayload : Obligations.FrameKindFollowsThePayload := by
  refine ⟨fun f => frameKind_eq_fixed_iff, fun f g h => by rw [frameKind, frameKind, h], fun f s ha hs hmax => ?_⟩
  have hdecode (w : List Byte) : exec (.decode w) s = .next (s.afterChunk w 0) :=
    exec_feedChunk_admitted rfl ha (hs ▸ ParserRegs.inv_reset)
  have hkind {w : List Byte} (h : encodeFrame f = .ok w) : (s.afterChunk w 0).parser.kind = frameKind f := by
    rw [State.afterChunk_parser, hs, offerBytes_encodeFrame_kind h]
  by_cases hp : f.payload = []
  · have henc := encodeFrame_fixed hp
    have hk := frameKind_eq_fixed_iff.mpr hp
    refine ⟨_, _, State.answers_encode ha henc, iff_of_true (fixedFrameBytes_start ..) hk,
      iff_of_false (by simp [fixedFrameBytes_start]) (by simp [hk]), fun _ => rfl, hdecode _, hkind henc⟩
  · have henc := encodeFrame_variable hp hmax
    have hk := frameKind_eq_variable_iff.mpr hp
    refine ⟨_, _, State.answers_encode ha henc, iff_of_false (by simp [variableFrameBytes_start]) (by simp [hk]),
      iff_of_true (variableFrameBytes_start ..) hk, fun h => absurd (hk.symm.trans h) (by decide), hdecode _, hkind henc⟩

/-! ### Accessors and setters -/

/-- An accessor answers as GET does (R93). -/
theorem State.answers_frameGet {s : State} (ha : s.admitted) (fld : CtrlField) (f : Frame) :
    s.answers (getInstr fld f.ctrl) (.ofOption (frameGet fld f)) :=
  (State.answers_iff ha (exec_getInstr fld f.ctrl s) _).mpr rfl

theorem frameSet_eq_none_iff {fld : CtrlField} {f : Frame} {v : BitVec fld.width} :
    frameSet fld f v = none ↔ setField fld f.ctrl v = none := Option.map_eq_none_iff

/-- A setter changes the control byte alone (R94). -/
theorem frameSet_eq_some_iff {fld : CtrlField} {f g : Frame} {v : BitVec fld.width} :
    frameSet fld f v = some g ↔
      setField fld f.ctrl v = some g.ctrl ∧ g.address = f.address ∧ g.payload = f.payload := by
  rw [frameSet, Option.map_eq_some_iff]
  constructor
  · rintro ⟨c, hc, rfl⟩
    exact ⟨hc, rfl, rfl⟩
  · rintro ⟨hc, haddr, hpayload⟩
    exact ⟨g.ctrl, hc, by rw [← haddr, ← hpayload]⟩

/-- Settles O59: both sides are the field's read, or its write, on `ctrl`. -/
theorem frameAccessorsAreControlByteCommands : Obligations.FrameAccessorsAreControlByteCommands := by
  intro f s ha
  have hget (fld : CtrlField) := State.answers_frameGet ha fld f
  refine ⟨hget .prm, hget .dir, hget .fcb, hget .acd, hget .fcv, hget .dfc, hget .fc, fun fld v => ⟨?_, fun g => ?_⟩⟩
  · rw [State.answers_iff ha (exec_setInstr fld f.ctrl v s), Response.ofOption_eq_absent_iff, frameSet_eq_none_iff]
  · rw [State.answers_iff ha (exec_setInstr fld f.ctrl v s), Response.ofOption_eq_okData_iff, frameSet_eq_some_iff]

end Sys2Proof.Machine
end

section
/-!
SUPPORT. The words of FEED, RESET, STATUS and TOFRAME (30_encoding R50, R51, R55): each is spelled by `op`, and FEED's byte by
`data`.
-/
namespace Sys2Proof

theorem decodeCommand_reset (f : Frame) : decodeCommand (cmdWord 0x2 0x0 0 0) f = .ok .reset := by
  simpa [decodeCommand] using decodeBare_cmdWord 0x2 .reset

theorem decodeCommand_status (f : Frame) : decodeCommand (cmdWord 0x3 0x0 0 0) f = .ok .status := by
  simpa [decodeCommand] using decodeBare_cmdWord 0x3 .status

theorem decodeCommand_toFrame (f : Frame) : decodeCommand (cmdWord 0x4 0x0 0 0) f = .ok .toFrame := by
  simpa [decodeCommand] using decodeBare_cmdWord 0x4 .toFrame

/-- The word 0x1000bb (R97). -/
theorem decodeCommand_feed (b : Byte) (f : Frame) :
    decodeCommand (cmdWord 0x1 0x0 0 0 + b.zeroExtend 24) f = .ok (.feed b) := by
  rw [Machine.cmdWord_add_data]
  exact decode_feed b f

/-- FEED takes neither a selector nor a value (R55). -/
theorem refuses_feed_of_operand {sel : BitVec 4} {val : Byte} (h : sel ≠ 0 ∨ val ≠ 0) (b : Byte) (f : Frame) :
    Refuses (decodeCommand (cmdWord 0x1 sel val b) f) := by
  rw [decodeCommand_of_feed f (by simp), refuses_decodeByteOperand, selField_cmdWord, valField_cmdWord]
  simpa only [field_ne_zero_iff] using h

end Sys2Proof
end

section
/-!
SUPPORT. RESET, STATUS and TOFRAME (42_frame_codec R109 to R111) in the admitted configuration, and their obligations.
-/
namespace Sys2Proof.Machine

theorem State.answers_status {s : State} {c : Classification} (ha : s.admitted) (hc : s.parser.cls = c) :
    s.answers .status (.okData (statusReg c)) :=
  hc ▸ State.answer_admitted ha _

/-- STATUS's value in literals (R15, R109). -/
theorem statusReg_eq (c : Classification) :
    statusReg c = match c with
      | .needMoreData => 0x00 | .noError => 0x01 | .badFormat => 0x02 | .checkError => 0x03 := by
  cases c <;> rfl

theorem State.answers_toFrame {s : State} {f : Frame} (ha : s.admitted) (hc : s.parser.cls = .noError)
    (hf : s.parser.frame = f) : s.answers .toFrame (.okFrame f) :=
  (execToFrame_ready hc).trans (hf ▸ State.answer_admitted ha _)

theorem State.answers_toFrame_notReady {s : State} (ha : s.admitted) (hc : s.parser.cls ≠ .noError) :
    s.answers .toFrame (.faulted .toFrameNotReady) :=
  (execToFrame_notReady hc).trans (State.answer_admitted ha _)

/-- A frame classified NoError has its whole payload in the buffer, and its length pair has been checked (R21, R101). -/
theorem ParserRegs.Inv.complete_of_noError {p : ParserRegs} (h : p.Inv) (hc : p.cls = .noError) :
    p.LengthsOk ∧ p.PayloadComplete := by
  have hd : p.st = .done := Decidable.byContradiction fun hd => by
    have hmore := h.1.mpr hd
    rw [hc] at hmore
    cases hmore
  obtain ⟨-, -, -, hwhole⟩ := (ParserRegs.inv_iff_of_done hd).mp h
  exact hwhole (.inl hc)

/-- A later state of the run still holds the response a command gave. -/
theorem State.runSteps_holds_response {i : Instr} (hi : fedBytes i = none) {n : Nat} {s t u : State}
    (h : exec i s = .next t) (hrun : t.runSteps n = .next u) :
    ∃ rs r, u.responses = rs ++ r :: s.responses ∧ t.responses = r :: s.responses := by
  obtain ⟨p, r, rfl⟩ := exec_next_respond hi h
  obtain ⟨-, -, -, rs, hrs⟩ := State.runSteps_extends hrun
  exact ⟨rs, r, hrs.symm, rfl⟩

/-- Settles O35: the view of `cls` in literals. -/
theorem statusReturnsTheClassification : Obligations.StatusReturnsTheClassification := by
  refine ⟨decodeCommand_status, fun s ha => (State.answers_status ha rfl).trans ?_⟩
  rw [statusReg_eq]
  rfl

/-- Settles O36: `cls` decides, the invariant gives the payload, and later commands only add responses. -/
theorem toFrameDeliversTheParsedFrame : Obligations.ToFrameDeliversTheParsedFrame := by
  refine ⟨decodeCommand_toFrame, fun s ha => ⟨fun hc => ⟨_, State.answers_toFrame_notReady ha hc, rfl, rfl⟩,
    fun hc => State.answers_toFrame ha hc rfl, fun hinv hc => ?_⟩, fun n s t u => State.runSteps_holds_response rfl⟩
  obtain ⟨hlen, hfixed, hvar⟩ := hinv.complete_of_noError hc
  refine ⟨hfixed, fun hk => ?_⟩
  have hfill := hvar hk
  have hmin : 3 ≤ s.parser.len0.toNat := (hlen hk).2
  omega

/-- Settles O37: RESET writes the reset values, which overflow no buffer. -/
theorem resetClearsEveryRegister : Obligations.ResetClearsEveryRegister :=
  ⟨decodeCommand_reset, fun _ ha => State.completeParser_admitted ha (pbufOverflowed_of_le (Nat.zero_le _)) _⟩

end Sys2Proof.Machine
end

section
/-!
SUPPORT. FEED, parse state by parse state (42_frame_codec R97 to R107): each arm of the parser in the literals of its rule, and the
obligations that say them of the command.
-/
namespace Sys2Proof.Machine

/-! ### FEED in the admitted configuration -/

theorem exec_feed_held {s : State} (ha : s.admitted) (hd : s.parser.st = .done) (b : Byte) :
    exec (.feed b) s = .next (s.respond .held) :=
  (execFeed_held hd b).trans (State.answer_admitted ha _)

/-- Outside Done FEED consumes its byte; only in AwaitPayload does that take room in the buffer (R35). -/
theorem exec_feed_consumed {s : State} (ha : s.admitted) (hd : s.parser.st ≠ .done)
    (hroom : s.parser.st = .awaitPayload → s.parser.pbuf.length < 253) (b : Byte) :
    exec (.feed b) s = .next (s.afterFeed (feedByte s.parser b)) := by
  have hfit : pbufOverflowed s.parser (feedByte s.parser b) = false := by
    by_cases hs : s.parser.st = .awaitPayload
    · refine pbufOverflowed_of_le ?_
      rw [feedByte_pbuf, if_pos hs, List.length_append]
      exact hroom hs
    · exact pbufOverflowed_of_pbuf_eq (by rw [feedByte_pbuf, if_neg hs])
  exact (execFeed_consumed hd b).trans (State.completeParser_admitted ha hfit _)

/-- The same in the states that append nothing, where the parser's arm makes `p` of the registers. -/
theorem exec_feed_of_st {s : State} {st : ParseState} {b : Byte} {p : ParserRegs} (ha : s.admitted) (hs : s.parser.st = st)
    (hst : st ≠ .done ∧ st ≠ .awaitPayload) (hp : feedByte s.parser b = p) :
    exec (.feed b) s = .next (s.afterFeed p) := by
  obtain ⟨hd, hpay⟩ := hst
  rw [exec_feed_consumed ha (hs ▸ hd) (fun h => absurd (hs.symm.trans h) hpay), hp]

/-! ### The arms in the rules' literals -/

/-- R101, its three checks written out. -/
theorem feedAwaitRepeatedStart_eq (p : ParserRegs) (b : Byte) :
    feedAwaitRepeatedStart p b = if b = 0x68 ∧ p.len0 = p.len1 ∧ 3 ≤ p.len0.toNat then { p with st := .awaitControl }
      else { p with cls := .badFormat, st := .done } := by
  simp only [feedAwaitRepeatedStart, repeatedStartOk_iff]
  rfl

/-- R103. -/
theorem feedAwaitAddress_eq (p : ParserRegs) (b : Byte) :
    feedAwaitAddress p b = { p with addr := b, st := if p.kind = .fixed then .awaitChecksum else .awaitPayload } := by
  obtain hk | hk := p.kind.fixed_or_variable
  · rw [feedAwaitAddress_fixed hk, if_pos hk]
  · rw [feedAwaitAddress_variable hk, if_neg (by simp [hk])]

/-- R104, the count compared with `len0 − 2` as an integer. -/
theorem feedAwaitPayload_eq {p : ParserRegs} (hs : p.st = .awaitPayload) (b : Byte) :
    feedAwaitPayload p b = { p with
      pbuf := p.pbuf ++ [b]
      st := if ((p.pbuf.length + 1 : Nat) : Int) = (p.len0.toNat : Int) - 2 then .awaitChecksum else .awaitPayload } := by
  by_cases hlast : p.pbuf.length + 3 = p.len0.toNat
  · rw [feedAwaitPayload_last hlast, if_pos (by omega)]
    rfl
  · rw [feedAwaitPayload_more hlast, if_neg (by omega), ← hs]
    rfl

/-- R104 in the invariant, where the count does not pass `len0 − 2` (R21). -/
theorem feedAwaitPayload_eq_of_inv {p : ParserRegs} (h : p.Inv) (hs : p.st = .awaitPayload) (b : Byte) :
    feedAwaitPayload p b =
      if p.pbuf.length + 1 < p.len0.toNat - 2 then { p with pbuf := p.pbuf ++ [b] }
      else { p with pbuf := p.pbuf ++ [b], st := .awaitChecksum } := by
  obtain ⟨-, -, -, hroom⟩ := (ParserRegs.inv_iff_of_awaitPayload hs).mp h
  split_ifs with hmore
  · rw [feedAwaitPayload_more (by omega)]
    rfl
  · rw [feedAwaitPayload_last (by omega)]
    rfl

/-- R106. -/
theorem feedAwaitEnd_eq (p : ParserRegs) (b : Byte) :
    feedAwaitEnd p b = if b ≠ 0x16 then { p with cls := .badFormat, st := .done }
      else if cs8 p.ctrl p.addr p.pbuf ≠ p.csrx then { p with cls := .checkError, st := .done }
      else { p with cls := .noError, st := .done } := by
  unfold feedAwaitEnd endClass
  split_ifs <;> rfl

/-- The sum of R106 written out. -/
theorem cs8_eq_iff {c a : Byte} {payload : List Byte} {cs : Byte} :
    cs8 c a payload = cs ↔ (c.toNat + a.toNat + (payload.map BitVec.toNat).sum) % 256 = cs.toNat := by
  rw [← BitVec.toNat_inj, cs8_toNat]

/-! ### FEED as a whole -/

/-- Settles O8: every command completes from the invariant, and a reserved word is answered. -/
theorem stepCompletesFromTheInvariant : Obligations.StepCompletesFromTheInvariant := fun _ => step_completes

/-- Settles O19: the arm `st` selects is `feedByte`'s, and only an append takes room. -/
theorem feedIsHeldOrConsumed : Obligations.FeedIsHeldOrConsumed := by
  refine ⟨decodeCommand_feed, fun sel val b f h => refuses_feed_of_operand h b f, fun b s ha =>
    ⟨fun hd => exec_feed_held ha hd b, fun hd hroom => ?_⟩⟩
  rw [exec_feed_consumed ha hd hroom]
  rfl

/-- Settles O20: the arms row by row; the invariant leaves AwaitPayload room. -/
theorem feedFollowsTheTransitionTable : Obligations.FeedFollowsTheTransitionTable := by
  intro b s ha hinv
  refine ⟨fun hd => exec_feed_held ha hd b, fun hd => ?_, fun hs => ?_⟩
  · rw [exec_feed_consumed ha hd hinv.pbuf_length_lt]
    refine congrArg (fun p => Host.Outcome.next (s.afterFeed p)) ?_
    split
    next hs => exact feedByte_awaitStart hs b
    next hs => exact feedByte_awaitLength0 hs b
    next hs => exact feedByte_awaitLength1 hs b
    next hs => exact (feedByte_awaitRepeatedStart hs b).trans (feedAwaitRepeatedStart_eq _ b)
    next hs => exact feedByte_awaitControl hs b
    next hs => exact (feedByte_awaitAddress hs b).trans (feedAwaitAddress_eq _ b)
    next hs => exact (feedByte_awaitPayload hs b).trans (feedAwaitPayload_eq_of_inv hinv hs b)
    next hs => exact feedByte_awaitChecksum hs b
    next hs => exact (feedByte_awaitEnd hs b).trans (feedAwaitEnd_eq _ b)
    next hs => exact absurd hs hd
  · obtain ⟨-, -, -, hroom⟩ := (ParserRegs.inv_iff_of_awaitPayload hs).mp hinv
    omega

/-- Settles O33: each field state's arm stores the byte, whatever it is; the example is a frame whose payload is 0x16. -/
theorem noEscapingOfMarkerBytes : Obligations.NoEscapingOfMarkerBytes := by
  refine ⟨fun b s t ha h => ?_, fun s ha hs => ?_⟩
  · rw [execFeed_next_parser_admitted ha h]
    exact ⟨fun hs => feedByte_awaitLength0 hs b, fun hs => feedByte_awaitLength1 hs b, fun hs => feedByte_awaitControl hs b,
      fun hs => (feedByte_awaitAddress hs b).trans (feedAwaitAddress_eq _ b),
      fun hs => (feedByte_awaitPayload hs b).trans (feedAwaitPayload_eq hs b), fun hs => feedByte_awaitChecksum hs b⟩
  · have hframe := offerBytes_variable_frame (l := 0x03) (payload := [0x16]) (by decide) rfl 0x08 0x01 0x1F 0x16
    exact ⟨_, exec_feedChunk_reset rfl ha hs hframe, rfl, rfl⟩

/-! ### FEED in each state -/

/-- Settles O21: the arm is R98's as it stands, and appends nothing. -/
theorem feedInAwaitStart : Obligations.FeedInAwaitStart := fun b _ ha hs =>
  exec_feed_of_st ha hs (by decide) (feedByte_awaitStart hs b)

/-- Settles O22: each of the four arms only stores. -/
theorem feedStoresTheByte : Obligations.FeedStoresTheByte := fun b _ ha =>
  ⟨fun hs => exec_feed_of_st ha hs (by decide) (feedByte_awaitLength0 hs b),
    fun hs => exec_feed_of_st ha hs (by decide) (feedByte_awaitLength1 hs b),
    fun hs => exec_feed_of_st ha hs (by decide) (feedByte_awaitControl hs b),
    fun hs => exec_feed_of_st ha hs (by decide) (feedByte_awaitChecksum hs b)⟩

/-- Settles O23: R101's checks pass, or one of them fails. -/
theorem feedInAwaitRepeatedStart : Obligations.FeedInAwaitRepeatedStart := by
  intro b s ha hs
  have hbyte := (feedByte_awaitRepeatedStart hs b).trans (feedAwaitRepeatedStart_eq s.parser b)
  refine ⟨fun hok => exec_feed_of_st ha hs (by decide) (hbyte.trans (if_pos hok)), fun hbad => ?_⟩
  have hfail : ¬ (b = 0x68 ∧ s.parser.len0 = s.parser.len1 ∧ 3 ≤ s.parser.len0.toNat) := by
    simpa only [not_and_or, not_le] using hbad
  exact exec_feed_of_st ha hs (by decide) (hbyte.trans (if_neg hfail))

/-- Settles O24: `kind` selects the path; before the payload the invariant keeps the buffer empty and `len0 ≥ 3`. -/
theorem feedInAwaitAddress : Obligations.FeedInAwaitAddress := by
  intro b s ha hs
  have hbyte := feedByte_awaitAddress hs b
  refine ⟨fun hk => exec_feed_of_st ha hs (by decide) (hbyte.trans (feedAwaitAddress_fixed hk b)),
    fun hk => exec_feed_of_st ha hs (by decide) (hbyte.trans (feedAwaitAddress_variable hk b)), fun hinv hk => ?_⟩
  obtain ⟨-, hempty, hlen⟩ := (ParserRegs.inv_iff_of_header (.inr hs)).mp hinv
  have hmin : 3 ≤ s.parser.len0.toNat := (hlen hk).2
  exact ⟨hempty, by omega⟩

/-- Settles O25: the append, then the count check; `len0` is one byte. -/
theorem feedInAwaitPayload : Obligations.FeedInAwaitPayload := by
  intro b s ha hs
  refine ⟨fun hroom => ?_, fun hinv => hinv.pbuf_length_lt hs⟩
  rw [exec_feed_consumed ha (by simp [hs]) (fun _ => hroom), feedByte_awaitPayload hs, feedAwaitPayload_eq hs]

/-- Settles O26: the end byte is checked first, then the sum. -/
theorem feedInAwaitEnd : Obligations.FeedInAwaitEnd := by
  intro b s ha hs sum
  have hend {c : Classification} (hc : endClass s.parser b = c) :
      exec (.feed b) s = .next (s.afterFeed (s.parser.enterDone c)) :=
    exec_feed_of_st ha hs (by decide) (hc ▸ feedByte_awaitEnd hs b)
  refine ⟨fun hb => hend (endClass_of_ne hb), ?_, ?_⟩
  · rintro rfl hsum
    exact hend (endClass_of_sum_ne (mt cs8_eq_iff.mp hsum))
  · rintro rfl hsum
    exact hend (endClass_of_sum_eq (cs8_eq_iff.mpr hsum))

/-- Settles O27: the held FEED only answers. -/
theorem feedInDoneIsHeld : Obligations.FeedInDoneIsHeld := fun b _ ha hd => exec_feed_held ha hd b

end Sys2Proof.Machine
end

section
/-!
SUPPORT. DECODE as its FEEDs (42_frame_codec R108): the consumed bytes' FEEDs, the held byte's, and a chunk cut in two.
-/
namespace Sys2Proof.Machine

/-! ### FEEDs one after the other -/

theorem State.runFeeds_cons {b : Byte} {s t : State} (h : exec (.feed b) s = .next t) (bs : List Byte) :
    s.runFeeds (b :: bs) = t.runFeeds bs := by
  simp only [State.runFeeds, h]

theorem State.runFeeds_append {xs : List Byte} {s t : State} (h : s.runFeeds xs = .next t) (ys : List Byte) :
    s.runFeeds (xs ++ ys) = t.runFeeds ys := by
  induction xs generalizing s with
  | nil => cases h; rfl
  | cons x xs ih =>
    rw [List.cons_append]
    cases hx : exec (.feed x) s with
    | next u =>
      rw [State.runFeeds_cons hx] at h ⊢
      exact ih h
    | fault r => simp [State.runFeeds, hx] at h
    | refused r => simp [State.runFeeds, hx] at h

/-- `s` after the FEEDs of the bytes of `bs` that the parser accepts. -/
def State.afterAccepted (s : State) (bs : List Byte) : State :=
  { s with
    parser := (offerBytes s.parser bs).1
    responses := List.replicate (offerBytes s.parser bs).2 (Response.okData 0x01) ++ s.responses }

theorem State.afterAccepted_nil (s : State) : s.afterAccepted [] = s := rfl

theorem State.afterAccepted_done {s : State} (hd : s.parser.st = .done) (bs : List Byte) : s.afterAccepted bs = s := by
  simp [State.afterAccepted, offerBytes_done hd]

theorem State.afterAccepted_cons {s : State} (hd : s.parser.st ≠ .done) (b : Byte) (bs : List Byte) :
    s.afterAccepted (b :: bs) = (s.afterFeed (feedByte s.parser b)).afterAccepted bs := by
  simp [State.afterAccepted, State.afterFeed, offerBytes_cons hd, List.replicate_succ']

/-- From the invariant the FEEDs of the bytes DECODE consumes run through. -/
theorem State.runFeeds_take {s : State} (ha : s.admitted) (hs : s.parser.Inv) (bs : List Byte) :
    s.runFeeds (bs.take (offerBytes s.parser bs).2) = .next (s.afterAccepted bs) := by
  induction bs generalizing s with
  | nil => rfl
  | cons b bs ih =>
    by_cases hd : s.parser.st = .done
    · rw [offerBytes_done hd, State.afterAccepted_done hd]
      rfl
    · rw [offerBytes_cons hd, List.take_succ_cons, State.runFeeds_cons (exec_feed_consumed ha hd hs.pbuf_length_lt b),
        State.afterAccepted_cons hd]
      exact ih (s := s.afterFeed (feedByte s.parser b)) ha (feedByte_inv hs b)

/-! ### A chunk and its FEEDs -/

theorem State.afterChunk_of_short {s : State} {bs : List Byte} (h : (offerBytes s.parser bs).2 < bs.length) :
    s.afterChunk bs 0 = ((s.afterAccepted bs).respond .held).returnCount (offerBytes s.parser bs).2 := by
  simp [State.afterChunk, State.afterAccepted, State.respond, State.returnCount, h]

theorem State.afterChunk_of_whole {s : State} {bs : List Byte} (h : (offerBytes s.parser bs).2 = bs.length) :
    s.afterChunk bs 0 = (s.afterAccepted bs).returnCount (offerBytes s.parser bs).2 := by
  simp [State.afterChunk, State.afterAccepted, State.returnCount, h]

/-- The FEED of the byte that stops a chunk is held. -/
theorem State.runFeeds_take_succ {s : State} (ha : s.admitted) (hs : s.parser.Inv) {bs : List Byte}
    (h : (offerBytes s.parser bs).2 < bs.length) :
    s.runFeeds (bs.take ((offerBytes s.parser bs).2 + 1)) = .next ((s.afterAccepted bs).respond .held) := by
  rw [← List.take_append_getElem h, State.runFeeds_append (State.runFeeds_take ha hs bs)]
  exact State.runFeeds_cons (exec_feed_held (s := s.afterAccepted bs) ha (offerBytes_short h) _) []

theorem exec_decode_next {s t : State} {bs : List Byte} (ha : s.admitted) (h : exec (.decode bs) s = .next t) :
    t = s.afterChunk bs 0 := State.feedChunk_next_admitted ha h

/-- A chunk that follows one consumed whole finds the registers and the responses the first left. -/
theorem State.afterChunk_append_of_consumed {s : State} {xs : List Byte} (hall : (offerBytes s.parser xs).2 = xs.length)
    (ys : List Byte) (n : Nat) :
    (s.afterChunk (xs ++ ys) n).parser = ((s.afterChunk xs n).afterChunk ys n).parser ∧
    (s.afterChunk (xs ++ ys) n).responses = ((s.afterChunk xs n).afterChunk ys n).responses ∧
    (offerBytes s.parser (xs ++ ys)).2 = xs.length + (offerBytes (offerBytes s.parser xs).1 ys).2 := by
  have hsplit := offerBytes_append s.parser xs ys
  rw [hall] at hsplit
  refine ⟨by simp [hsplit], ?_, by rw [hsplit]⟩
  have hrep (k : Nat) (r : Response) :
      List.replicate (xs.length + k) r = List.replicate k r ++ List.replicate xs.length r := by
    rw [Nat.add_comm, List.replicate_add]
  simp [State.afterChunk, hsplit, hall, hrep, -List.replicate_append_replicate]

/-! ### The obligation -/

/-- Settles O34: the closed form of a chunk is that of its FEEDs. -/
theorem decodeIsItsFeeds : Obligations.DecodeIsItsFeeds := by
  refine ⟨decodeCommand_feed, fun chunk s ha hinv => ?_, fun xs ys m s t u ha hinv ht hcount hu hm => ?_⟩
  · have hexec := exec_feedChunk_admitted (i := .decode chunk) rfl ha hinv
    have hle := offerBytes_count_le s.parser chunk
    have hv := State.runFeeds_take ha hinv chunk
    have hdone (hd : s.parser.st = .done) : (offerBytes s.parser chunk).2 = 0 := by rw [offerBytes_done hd]
    obtain hshort | hall := hle.lt_or_eq
    · rw [State.afterChunk_of_short hshort] at hexec
      refine ⟨_, _, _, hexec, hle, hv, rfl, State.runFeeds_take_succ ha hinv hshort, rfl,
        fun _ => ⟨offerBytes_short hshort, rfl⟩, fun hall => absurd hall hshort.ne, hdone, ?_⟩
      rintro rfl
      exact absurd hshort (Nat.not_lt_zero _)
    · rw [State.afterChunk_of_whole hall] at hexec
      have htake : chunk.take ((offerBytes s.parser chunk).2 + 1) = chunk.take (offerBytes s.parser chunk).2 := by
        rw [List.take_of_length_le (by omega), List.take_of_length_le hall.ge]
      refine ⟨_, _, _, hexec, hle, hv, rfl, htake ▸ hv, rfl, fun h => absurd hall h.ne, fun _ => rfl, hdone, ?_⟩
      rintro rfl
      exact s.afterAccepted_nil
  · obtain rfl := exec_decode_next ha ht
    obtain rfl := exec_decode_next (s := s.afterChunk xs 0) ha hu
    have hall : (offerBytes s.parser xs).2 = xs.length := by simpa [State.lastCount] using hcount
    have hrest : (offerBytes (offerBytes s.parser xs).1 ys).2 = m := by simpa [State.lastCount] using hm
    obtain ⟨hparser, hresponses, hsum⟩ := State.afterChunk_append_of_consumed hall ys 0
    refine ⟨_, exec_feedChunk_admitted rfl ha hinv, hparser, hresponses, ?_⟩
    rw [State.lastCount, State.afterChunk_counts, hsum, hrest, Nat.zero_add]
    rfl

end Sys2Proof.Machine
end

section
/-!
SUPPORT. An encoded frame offered to the reset registers, with whatever checksum and end byte (42_frame_codec R112 to R115): its
bytes before the checksum fill the registers, and the last two decide the classification.
-/
namespace Sys2Proof.Machine

/-! ### What DECODE leaves from the reset registers -/

/-- DECODE from the reset registers, by what its bytes make of them. -/
theorem exec_decode_reset {s : State} (ha : s.admitted) (hs : s.parser = ParserRegs.reset) (bytes : List Byte) :
    ∃ t, exec (.decode bytes) s = .next t ∧ t.admitted ∧ t.lastCount = some (offerBytes ParserRegs.reset bytes).2 ∧
      t.parser = (offerBytes ParserRegs.reset bytes).1 := by
  refine ⟨s.afterChunk bytes 0, exec_feedChunk_admitted rfl ha (hs ▸ ParserRegs.inv_reset), ha, ?_, ?_⟩
  · rw [State.lastCount, State.afterChunk_counts, hs, Nat.zero_add]
    rfl
  · rw [State.afterChunk_parser, hs]

/-! ### The wire bytes of a Frame -/

/-- The wire bytes of a Frame before its checksum (R62, R63). -/
def wireHead (f : Frame) : List Byte :=
  if f.payload = [] then [Config.startFixed, f.ctrl, addressByte f.address]
  else [Config.startVar, lengthByte f.payload, lengthByte f.payload, Config.startVar, f.ctrl, addressByte f.address] ++
    f.payload

/-- The checksum ENCODE computes of a Frame. -/
def wireSum (f : Frame) : Byte := cs8 f.ctrl (addressByte f.address) f.payload

theorem encodeFrame_eq_ok_iff {f : Frame} {w : List Byte} :
    encodeFrame f = .ok w ↔ f.payload.length ≤ 253 ∧ w = wireHead f ++ [wireSum f, Config.endMark] := by
  have hfixed (hp : f.payload = []) :
      wireHead f ++ [wireSum f, Config.endMark] = fixedFrameBytes f.ctrl (addressByte f.address) := by
    rw [wireHead, if_pos hp, wireSum, hp]
    rfl
  have hvar (hp : f.payload ≠ []) : wireHead f ++ [wireSum f, Config.endMark] =
      variableFrameBytes (lengthByte f.payload) f.ctrl (addressByte f.address) f.payload := by
    rw [wireHead, if_neg hp]
    rfl
  constructor
  · intro h
    obtain ⟨hp, rfl⟩ | ⟨hp, hmax, rfl⟩ := encodeFrame_eq_ok h
    · exact ⟨by simp [hp], (hfixed hp).symm⟩
    · exact ⟨hmax, (hvar hp).symm⟩
  · rintro ⟨hmax, rfl⟩
    by_cases hp : f.payload = []
    · rw [hfixed hp, encodeFrame_fixed hp]
    · rw [hvar hp, encodeFrame_variable hp hmax]

/-- A command answers one response. -/
theorem State.answers_unique {s : State} {i : Instr} {q r : Response} (hq : s.answers i q) (hr : s.answers i r) : q = r := by
  have h : s.respond q = s.respond r := Host.Outcome.next.inj (hq.symm.trans hr)
  exact List.head_eq_of_cons_eq (congrArg State.responses h)

/-- The bytes of an OK ENCODE are the Frame's wire bytes. -/
theorem State.answers_encode_iff {s : State} (ha : s.admitted) {f : Frame} {w : List Byte} :
    s.answers (.encode f) (.okBytes w) ↔ f.payload.length ≤ 253 ∧ w = wireHead f ++ [wireSum f, Config.endMark] := by
  refine ⟨fun h => ?_, fun h => State.answers_encode ha (encodeFrame_eq_ok_iff.mpr h)⟩
  obtain hlong | hmax := Nat.lt_or_ge 253 f.payload.length
  · have hr := State.answers_unique h (State.answers_encode_tooLong ha hlong)
    cases hr
  · have hr := State.answers_unique h (State.answers_encode ha (encodeFrame_eq_ok_iff.mpr ⟨hmax, rfl⟩))
    exact ⟨hmax, Option.some.inj (congrArg Response.bytesOut hr)⟩

/-! ### What the parser makes of them -/

/-- The registers hold the fields of `f` as its wire bytes give them, and the received checksum `cs`. -/
structure ParserRegs.Holds (p : ParserRegs) (f : Frame) (cs : Byte) : Prop where
  ctrl : p.ctrl = f.ctrl
  addr : p.addr = addressByte f.address
  pbuf : p.pbuf = f.payload
  csrx : p.csrx = cs

/-- Every byte is consumed, and the end byte finds the registers filled. -/
theorem offerBytes_wireHead {f : Frame} (hmax : f.payload.length ≤ 253) (cs e : Byte) :
    ∃ p : ParserRegs, p.Holds f cs ∧
      offerBytes ParserRegs.reset (wireHead f ++ [cs, e]) = (feedAwaitEnd p e, (wireHead f ++ [cs, e]).length) := by
  by_cases hp : f.payload = []
  · rw [wireHead, if_pos hp]
    exact ⟨_, ⟨rfl, rfl, hp.symm, rfl⟩, offerBytes_fixed_frame f.ctrl (addressByte f.address) cs e⟩
  · have hl := lengthByte_toNat hmax
    have hpos := List.length_pos_of_ne_nil hp
    have hframe := offerBytes_variable_frame (l := lengthByte f.payload) (payload := f.payload) (by omega) (by omega) f.ctrl
      (addressByte f.address) cs e
    have hlen : (wireHead f ++ [cs, e]).length = (lengthByte f.payload).toNat + 6 := by
      simp only [wireHead, if_neg hp, List.length_append, List.length_cons, List.length_nil]
      omega
    rw [hlen, wireHead, if_neg hp]
    exact ⟨_, ⟨rfl, rfl, rfl, rfl⟩, hframe⟩

/-- DECODE of a Frame's wire bytes with checksum byte `cs` and end byte `e`, from the reset registers. -/
theorem exec_decode_wireHead {s : State} (ha : s.admitted) (hs : s.parser = ParserRegs.reset) {f : Frame}
    (hmax : f.payload.length ≤ 253) (cs e : Byte) :
    ∃ (t : State) (p : ParserRegs), exec (.decode (wireHead f ++ [cs, e])) s = .next t ∧ t.admitted ∧
      t.lastCount = some (wireHead f ++ [cs, e]).length ∧ p.Holds f cs ∧ t.parser = p.enterDone (endClass p e) := by
  obtain ⟨t, ht, hta, hcount, hparser⟩ := exec_decode_reset ha hs (wireHead f ++ [cs, e])
  obtain ⟨p, hp, hoffer⟩ := offerBytes_wireHead hmax cs e
  rw [hoffer] at hcount hparser
  exact ⟨t, p, ht, hta, hcount, hp, hparser⟩

theorem ParserRegs.Holds.endClass_eq {p : ParserRegs} {f : Frame} {cs : Byte} (h : p.Holds f cs) :
    endClass p Config.endMark = if wireSum f = cs then .noError else .checkError := by
  have hsum : cs8 p.ctrl p.addr p.pbuf = wireSum f := by rw [h.ctrl, h.addr, h.pbuf, wireSum]
  split_ifs with hcs
  · exact endClass_of_sum_eq (by rw [hsum, hcs, h.csrx])
  · exact endClass_of_sum_ne (by rwa [hsum, h.csrx])

/-- Sending the low address byte alone loses nothing of an address up to 0x00FF. -/
theorem zeroExtend_addressByte_eq_iff (address : BitVec 16) :
    (addressByte address).zeroExtend 16 = address ↔ address.toNat ≤ 0x00FF := by
  have hlow : ((addressByte address).zeroExtend 16).toNat = address.toNat % 256 := by
    rw [BitVec.zeroExtend_eq_setWidth, BitVec.toNat_setWidth_of_le (by decide), addressByte, BitVec.extractLsb'_toNat]
    rfl
  rw [← BitVec.toNat_inj, hlow]
  omega

/-- Settles O38: the end byte finds the registers filled with the Frame's fields and the checksum right. -/
theorem decodeOfEncodedFrameGivesTheFrame : Obligations.DecodeOfEncodedFrameGivesTheFrame := by
  intro f s hmax ha hs
  obtain ⟨t, p, ht, hta, hcount, hp, hparser⟩ := exec_decode_wireHead ha hs hmax (wireSum f) Config.endMark
  have hcls : t.parser.cls = .noError := by rw [hparser, ParserRegs.enterDone_cls, hp.endClass_eq, if_pos rfl]
  have hframe : t.parser.frame = { f with address := (addressByte f.address).zeroExtend 16 } := by
    rw [hparser, ParserRegs.frame, ParserRegs.enterDone_ctrl, ParserRegs.enterDone_addr, ParserRegs.enterDone_pbuf,
      hp.ctrl, hp.addr, hp.pbuf, addressOf]
  refine ⟨_, t, (State.answers_encode_iff ha).mpr ⟨hmax, rfl⟩, ht, hcount, ?_, ?_, ?_⟩
  · exact State.answers_status hta hcls
  · exact State.answers_toFrame hta hcls hframe
  · refine Iff.trans ⟨fun h => congrArg Frame.address h, fun h => ?_⟩ (zeroExtend_addressByte_eq_iff f.address)
    exact congrArg (fun a => { f with address := a }) h

end Sys2Proof.Machine
end

section
/-!
SUPPORT. Initial parts of a frame and the bytes after it (42_frame_codec R113 to R117): how many bytes DECODE consumes.
-/
namespace Sys2Proof.Machine

/-! ### Initial parts -/

/-- What ends a frame within a chunk ends it whatever follows. -/
theorem offerBytes_of_done {p : ParserRegs} {xs : List Byte} (hd : (offerBytes p xs).1.st = .done) (ys : List Byte) :
    offerBytes p (xs ++ ys) = offerBytes p xs := by
  rw [offerBytes_append, offerBytes_done hd]
  rfl

/-- Where every byte is consumed, a strict initial part was consumed whole and had not entered Done. -/
theorem offerBytes_initial_part {p : ParserRegs} {xs ys : List Byte} (hys : ys ≠ [])
    (hall : (offerBytes p (xs ++ ys)).2 = (xs ++ ys).length) :
    (offerBytes p xs).2 = xs.length ∧ (offerBytes p xs).1.st ≠ .done := by
  have hx := offerBytes_count_le p xs
  have hy := offerBytes_count_le (offerBytes p xs).1 ys
  have hpos := List.length_pos_of_ne_nil hys
  rw [offerBytes_append, List.length_append] at hall
  dsimp only at hall
  refine ⟨by omega, fun hd => ?_⟩
  rw [offerBytes_done hd] at hall hy
  dsimp only at hall
  omega

/-- From the reset registers NeedMoreData says that the chunk has not entered Done (R16). -/
theorem offerBytes_reset_cls (bs : List Byte) :
    (offerBytes ParserRegs.reset bs).1.cls = .needMoreData ↔ (offerBytes ParserRegs.reset bs).1.st ≠ .done :=
  (offerBytes_inv ParserRegs.inv_reset bs).1

/-- Every byte of a Frame's wire bytes is consumed. -/
theorem offerBytes_wireHead_count {f : Frame} (hmax : f.payload.length ≤ 253) (cs e : Byte) :
    (offerBytes ParserRegs.reset (wireHead f ++ [cs, e])).2 = (wireHead f ++ [cs, e]).length := by
  obtain ⟨p, -, hoffer⟩ := offerBytes_wireHead hmax cs e
  rw [hoffer]

/-- A byte that takes the parser into Done finds it awaiting a start byte, the repeated start byte or the end byte. -/
theorem feedByte_enters_done {p : ParserRegs} {b : Byte} (hd : p.st ≠ .done) (h : (feedByte p b).st = .done) :
    p.st = .awaitStart ∨ p.st = .awaitRepeatedStart ∨ p.st = .awaitEnd := by
  cases hs : p.st with
  | awaitStart => exact .inl rfl
  | awaitRepeatedStart => exact .inr (.inl rfl)
  | awaitEnd => exact .inr (.inr rfl)
  | awaitLength0 => rw [feedByte_awaitLength0 hs] at h; cases h
  | awaitLength1 => rw [feedByte_awaitLength1 hs] at h; cases h
  | awaitControl => rw [feedByte_awaitControl hs] at h; cases h
  | awaitAddress =>
    rw [feedByte_awaitAddress hs, feedAwaitAddress_eq] at h
    dsimp only at h
    split at h <;> cases h
  | awaitPayload =>
    rw [feedByte_awaitPayload hs, feedAwaitPayload_eq hs] at h
    dsimp only at h
    split at h <;> cases h
  | awaitChecksum => rw [feedByte_awaitChecksum hs] at h; cases h
  | done => exact absurd hs hd

/-- The byte after AwaitEnd is the last the parser takes. -/
theorem offerBytes_count_of_awaitEnd {p : ParserRegs} (hs : p.st = .awaitEnd) (bs : List Byte) :
    (offerBytes p bs).2 ≤ 1 := by
  cases bs with
  | nil => exact Nat.zero_le 1
  | cons b bs => rw [offerBytes_cons (by simp [hs]), feedByte_awaitEnd hs, offerBytes_done rfl]

/-- Where every byte is consumed, one byte alone can follow AwaitEnd. -/
theorem length_of_awaitEnd_initial_part {p : ParserRegs} {xs ys : List Byte} (hys : ys ≠ [])
    (hall : (offerBytes p (xs ++ ys)).2 = (xs ++ ys).length) (hs : (offerBytes p xs).1.st = .awaitEnd) :
    ys.length = 1 := by
  obtain ⟨hpart, -⟩ := offerBytes_initial_part hys hall
  have hone := offerBytes_count_of_awaitEnd hs ys
  have hpos := List.length_pos_of_ne_nil hys
  rw [offerBytes_append, List.length_append, hpart] at hall
  dsimp only at hall
  omega

/-- Settles O39: the initial part is consumed because the whole frame is, and one byte alone is taken after AwaitEnd. -/
theorem strictPrefixesNeedMoreData : Obligations.StrictPrefixesNeedMoreData := by
  refine ⟨fun f w k s ha hs hw hk => ?_, fun b s t h hd hd' => ?_⟩
  · obtain ⟨hmax, rfl⟩ := (State.answers_encode_iff ha).mp hw
    have hall := offerBytes_wireHead_count hmax (wireSum f) Config.endMark
    generalize wireHead f ++ [wireSum f, Config.endMark] = w at hall hk
    obtain ⟨t, ht, -, hcount, hparser⟩ := exec_decode_reset ha hs (w.take k)
    have hrest : w.drop k ≠ [] := by simpa using hk
    rw [← List.take_append_drop k w] at hall
    obtain ⟨hpart, hopen⟩ := offerBytes_initial_part hrest hall
    refine ⟨t, ht, by rw [hcount, hpart, List.length_take_of_le hk.le], ?_, fun hst => ?_⟩
    · rw [hparser]
      exact (offerBytes_reset_cls _).mpr hopen
    · rw [hparser] at hst
      have hone := length_of_awaitEnd_initial_part hrest hall hst
      rw [List.length_drop] at hone
      omega
  · obtain hp | ⟨-, hp⟩ := execFeed_next_parser h
    · rw [hp] at hd'
      exact absurd hd' hd
    · rw [hp] at hd'
      exact feedByte_enters_done hd hd'

/-! ### One byte of a frame replaced -/

/-- A byte that is no start byte is consumed, and the parser is in Done. -/
theorem offerBytes_wrong_start {b : Byte} (h10 : b ≠ 0x10) (h68 : b ≠ 0x68) (bs : List Byte) :
    offerBytes ParserRegs.reset (b :: bs) = (ParserRegs.reset.enterDone .badFormat, 1) := by
  have hbad : feedByte ParserRegs.reset b = ParserRegs.reset.enterDone .badFormat := by
    rw [feedByte_awaitStart rfl, feedAwaitStart, if_neg h10, if_neg h68]
  rw [offerBytes_cons (by decide), hbad, offerBytes_done rfl]

theorem set_checksum (xs : List Byte) (cs e x : Byte) :
    (xs ++ [cs, e]).set ((xs ++ [cs, e]).length - 2) x = xs ++ [x, e] := by
  simp

theorem set_endByte (xs : List Byte) (cs e y : Byte) :
    (xs ++ [cs, e]).set ((xs ++ [cs, e]).length - 1) y = xs ++ [cs, y] := by
  simp

/-- Settles O40: the checksum byte is what the sum is compared with. -/
theorem checksumByteDecidesCheckError : Obligations.ChecksumByteDecidesCheckError := by
  intro f w x s ha hs hw
  obtain ⟨hmax, rfl⟩ := (State.answers_encode_iff ha).mp hw
  obtain ⟨t, p, ht, -, -, hp, hparser⟩ := exec_decode_wireHead ha hs hmax x Config.endMark
  rw [set_checksum]
  have hcls : t.parser.cls = if wireSum f = x then .noError else .checkError := by
    rw [hparser, ParserRegs.enterDone_cls, hp.endClass_eq]
  refine ⟨t, ht, ?_⟩
  change (_ ↔ x ≠ wireSum f) ∧ (_ ↔ x = wireSum f)
  by_cases hx : wireSum f = x <;> simp [hcls, hx, eq_comm (a := x)]

/-- Settles O41: the first byte alone ends the frame, and the last one whatever the checksum is. -/
theorem wrongStartOrEndIsBadFormat : Obligations.WrongStartOrEndIsBadFormat := by
  refine ⟨fun b bs s ha hs h10 h68 => ?_, fun f w y s ha hs hw hy => ?_⟩
  · obtain ⟨t, ht, -, hcount, hparser⟩ := exec_decode_reset ha hs (b :: bs)
    rw [offerBytes_wrong_start h10 h68] at hcount hparser
    exact ⟨t, ht, hcount, by rw [hparser]; rfl⟩
  · obtain ⟨hmax, rfl⟩ := (State.answers_encode_iff ha).mp hw
    obtain ⟨t, p, ht, -, hcount, -, hparser⟩ := exec_decode_wireHead ha hs hmax (wireSum f) y
    rw [set_endByte]
    refine ⟨t, ht, by simpa using hcount, ?_⟩
    rw [hparser, ParserRegs.enterDone_cls, endClass_of_ne hy]

/-! ### How many bytes are consumed -/

/-- From the reset registers the bytes are consumed whole, and the last of them ends a frame. -/
def EndsFrame (xs : List Byte) : Prop :=
  (offerBytes ParserRegs.reset xs).2 = xs.length ∧ (offerBytes ParserRegs.reset xs).1.st = .done

/-- Where every way to complete the first `N` bytes to `N` ends a frame, DECODE consumes `N` bytes; with fewer to hand it
consumes them all and needs more. -/
theorem offerBytes_count_of_endsFrame {bytes : List Byte} {N : Nat}
    (hframe : ∀ ys, (bytes.take N ++ ys).length = N → EndsFrame (bytes.take N ++ ys)) :
    if N ≤ bytes.length then
      (offerBytes ParserRegs.reset bytes).2 = N ∧ (offerBytes ParserRegs.reset bytes).1.cls ≠ .needMoreData
    else
      (offerBytes ParserRegs.reset bytes).2 = bytes.length ∧ (offerBytes ParserRegs.reset bytes).1.cls = .needMoreData := by
  rw [Ne, offerBytes_reset_cls, not_not]
  split_ifs with hN
  · have hlen : (bytes.take N).length = N := List.length_take_of_le hN
    obtain ⟨hcount, hd⟩ := hframe [] (by rw [List.append_nil, hlen])
    rw [List.append_nil] at hcount hd
    have hsame := offerBytes_of_done hd (bytes.drop N)
    rw [List.take_append_drop] at hsame
    rw [hsame]
    exact ⟨hcount.trans hlen, hd⟩
  · rw [List.take_of_length_le (by omega)] at hframe
    obtain ⟨hcount, -⟩ := hframe (List.replicate (N - bytes.length) 0) (by simp; omega)
    exact offerBytes_initial_part (List.ne_nil_of_length_pos (by simp; omega)) hcount

theorem endsFrame_fixed : ∀ {rest : List Byte}, rest.length = 4 → EndsFrame (0x10 :: rest)
  | [_, _, _, _], _ => ⟨rfl, rfl⟩

/-- R101 passes, and L is the length of the rest. -/
theorem endsFrame_variable {l : Byte} {body : List Byte} (hmin : 3 ≤ l.toNat) (hlen : body.length = l.toNat + 2) :
    EndsFrame (0x68 :: l :: l :: 0x68 :: body) := by
  obtain ⟨c, a, rest, rfl⟩ : ∃ c a rest, body = c :: a :: rest := by
    match body, hlen with
    | c :: a :: rest, _ => exact ⟨c, a, rest, rfl⟩
  have hrest : rest.length = l.toNat := by simpa using hlen
  obtain ⟨cs, e, hlast⟩ : ∃ cs e, rest.drop (l.toNat - 2) = [cs, e] :=
    List.length_eq_two.mp (by rw [List.length_drop]; omega)
  have hframe := offerBytes_variable_frame (payload := rest.take (l.toNat - 2)) hmin
    (List.length_take_of_le (by omega)) c a cs e
  have hbody : [c, a] ++ rest.take (l.toNat - 2) ++ [cs, e] = c :: a :: rest := by
    rw [← hlast, List.append_assoc, List.take_append_drop]
    rfl
  rw [hbody] at hframe
  exact ⟨by rw [hframe, ← hrest]; rfl, by rw [hframe]; rfl⟩

/-- Three bytes of a variable frame end nothing. -/
theorem offerBytes_variable_short : ∀ {rest : List Byte}, rest.length < 3 →
    (offerBytes ParserRegs.reset (0x68 :: rest)).2 = (0x68 :: rest).length ∧
    (offerBytes ParserRegs.reset (0x68 :: rest)).1.cls = .needMoreData
  | [], _ => ⟨rfl, rfl⟩
  | [_], _ => ⟨rfl, rfl⟩
  | [_, _], _ => ⟨rfl, rfl⟩

theorem eq_cons_of_getElem?_zero {xs : List Byte} {b : Byte} (h : xs[0]? = some b) : ∃ rest, xs = b :: rest :=
  List.head?_eq_some_iff.mp (List.head?_eq_getElem?.trans h)

/-- Settles O42: the start byte, then R101's checks and L, say where a frame ends. -/
theorem consumedCountsByOutcome : Obligations.ConsumedCountsByOutcome := by
  intro bytes s ha hs
  obtain ⟨t, ht, -, hcount, hparser⟩ := exec_decode_reset ha hs bytes
  refine ⟨_, t, ht, hcount, ?_⟩
  rw [hparser]
  refine ⟨?_, fun b hb h10 h68 => ?_, fun hb => ?_, fun hb hshort => ?_, fun l0 l1 m hb h0 h1 hm => ?_⟩
  · rintro rfl
    exact ⟨rfl, rfl⟩
  · obtain ⟨rest, rfl⟩ := eq_cons_of_getElem?_zero hb
    rw [offerBytes_wrong_start h10 h68]
    exact ⟨rfl, rfl⟩
  · obtain ⟨rest, rfl⟩ := eq_cons_of_getElem?_zero hb
    exact offerBytes_count_of_endsFrame fun ys hlen => endsFrame_fixed (Nat.succ.inj hlen)
  · obtain ⟨rest, rfl⟩ := eq_cons_of_getElem?_zero hb
    exact offerBytes_variable_short (Nat.lt_of_succ_lt_succ hshort)
  · obtain ⟨rest₁, rfl⟩ := eq_cons_of_getElem?_zero hb
    obtain ⟨rest₂, rfl⟩ := eq_cons_of_getElem?_zero (xs := rest₁) h0
    obtain ⟨rest₃, rfl⟩ := eq_cons_of_getElem?_zero (xs := rest₂) h1
    obtain ⟨body, rfl⟩ := eq_cons_of_getElem?_zero (xs := rest₃) hm
    by_cases hbad : m ≠ 0x68 ∨ l0 ≠ l1 ∨ l0.toNat < 3
    · rw [if_pos hbad, offerBytes_rejected_frame hbad]
      exact ⟨rfl, rfl⟩
    · rw [if_neg hbad]
      simp only [not_or, not_not, not_lt] at hbad
      obtain ⟨rfl, rfl, hmin⟩ := hbad
      exact offerBytes_count_of_endsFrame fun ys hlen => endsFrame_variable hmin (by simpa using hlen)

end Sys2Proof.Machine
end

section
/-!
SUPPORT. FAULT and REFUSED (60_exceptions R122, R123): which commands answer FAULT in the admitted configuration, and that every
other configuration refuses every command.
-/
namespace Sys2Proof.Machine

/-! ### Refusals (R123) -/

theorem execFeed_unsupported {s : State} (hn : ¬ s.admitted) (b : Byte) :
    execFeed b s = .next (s.respond (.refused .addrWidthUnsupported)) := by
  by_cases hd : s.parser.st = .done
  · exact (execFeed_held hd b).trans (State.answer_unsupported hn _)
  · exact (execFeed_consumed hd b).trans (State.completeParser_unsupported hn _ _)

/-- A command that is no chunk is refused with ADDR_BYTES other than 1. -/
theorem exec_unsupported {i : Instr} {s : State} (hn : ¬ s.admitted) (hi : fedBytes i = none) :
    exec i s = .next (s.respond (.refused .addrWidthUnsupported)) := by
  obtain hw | ⟨b, rfl⟩ | rfl | ⟨bs, hf⟩ := instr_form_cases i
  · obtain ⟨r, hr⟩ := exec_answer hw s
    exact hr.trans (State.answer_unsupported hn r)
  · exact execFeed_unsupported hn b
  · exact State.completeParser_unsupported hn _ _
  · rw [hi] at hf
    cases hf

/-- Settles O12: every command completes by `answer` or `completeParser`, which refuse, and a chunk ends at its first FEED. -/
theorem unsupportedAddressWidthRefusesEveryCommand : Obligations.UnsupportedAddressWidthRefusesEveryCommand := by
  refine ⟨fun i s hn hi => ⟨_, exec_unsupported hn hi, _, rfl, rfl, rfl⟩, fun i s hn => ?_, ?_⟩
  · have hcode (r : Response) (hr : r ∈ [Response.refused .addrWidthUnsupported]) :
        r.outcome = .refused ∧ r.rdata = 0x02 := by
      obtain rfl := List.mem_singleton.mp hr
      exact ⟨rfl, rfl⟩
    cases hi : fedBytes i with
    | none => exact ⟨_, [_], exec_unsupported hn hi, rfl, hcode, nofun, rfl, rfl, rfl⟩
    | some bs =>
      rw [exec_feedChunk hi]
      cases bs with
      | nil => exact ⟨_, [], rfl, rfl, nofun, fun _ => rfl, rfl, rfl, rfl⟩
      | cons b bs => exact ⟨_, [_], State.feedChunk_unsupported hn b bs 0, rfl, hcode, nofun, rfl, rfl, rfl⟩
  · rintro w f s rest hp ⟨e, he⟩
    exact ⟨_, step_of_reserved hp he, _, rfl, rfl, rfl⟩

/-! ### The two causes of FAULT (R122) -/

/-- The command meets one of R122's two conditions. -/
def Instr.Faults (i : Instr) (p : ParserRegs) : Prop :=
  (i = .toFrame ∧ p.cls ≠ .noError) ∨ ∃ f, i = .encode f ∧ 253 < f.payload.length

/-- A command that meets one of them answers FAULT, with the condition's own code. -/
theorem State.answers_faulted {i : Instr} {s : State} (ha : s.admitted) (h : Instr.Faults i s.parser) :
    ∃ c, s.answers i (.faulted c) ∧ (c = .toFrameNotReady ↔ i = .toFrame) := by
  obtain ⟨rfl, hc⟩ | ⟨f, rfl, hlong⟩ := h
  · exact ⟨_, State.answers_toFrame_notReady ha hc, iff_of_true rfl rfl⟩
  · exact ⟨_, State.answers_encode_tooLong ha hlong, iff_of_false nofun nofun⟩

theorem Response.ofOption_outcome (o : Option Byte) :
    (Response.ofOption o).outcome = .ok ∨ (Response.ofOption o).outcome = .none := by
  cases o with
  | some d => exact .inl rfl
  | none => exact .inr rfl

/-- A command that only answers does not answer HOLD, and FAULT only by R122's conditions. -/
theorem exec_answer_outcome {i : Instr} (hi : writesParser i = false) (s : State) :
    ∃ r, exec i s = s.answer r ∧ r.outcome ≠ .hold ∧ (r.outcome = .fault → Instr.Faults i s.parser) := by
  cases i with
  | feed | reset | decode | frameFixed | frameVariable => cases hi
  | toFrame =>
    by_cases hc : s.parser.cls = .noError
    · exact ⟨_, execToFrame_ready hc, nofun, nofun⟩
    · exact ⟨_, execToFrame_notReady hc, nofun, fun _ => .inl ⟨rfl, hc⟩⟩
  | encode f =>
    obtain hlong | hmax := Nat.lt_or_ge 253 f.payload.length
    · exact ⟨.faulted .encodeTooLong, by rw [exec, execEncode, encodeFrame_tooLong hlong], nofun,
        fun _ => .inr ⟨f, rfl, hlong⟩⟩
    · have henc := encodeFrame_eq_ok_iff.mpr ⟨hmax, rfl⟩
      exact ⟨.okBytes _, by rw [exec, execEncode, henc], nofun, nofun⟩
  | status | view | hasPayload => exact ⟨_, rfl, nofun, nofun⟩
  | _ =>
    refine ⟨.ofOption _, rfl, ?_⟩
    obtain h | h := Response.ofOption_outcome _ <;> rw [h] <;> exact ⟨nofun, nofun⟩

/-- Of all commands' responses, a chunk's too, only those of R122's conditions are FAULT. -/
theorem exec_next_fault {i : Instr} {s t : State} (ha : s.admitted) (h : exec i s = .next t) :
    ∃ rs, t.responses = rs ++ s.responses ∧ ∀ r ∈ rs, r.outcome = .fault → Instr.Faults i s.parser := by
  obtain hw | ⟨b, rfl⟩ | rfl | ⟨bs, hf⟩ := instr_form_cases i
  · obtain ⟨r, hr, -, hfault⟩ := exec_answer_outcome hw s
    rw [hr, State.answer_admitted ha] at h
    cases h
    exact ⟨[r], rfl, List.forall_mem_singleton.mpr hfault⟩
  · obtain hr | hr := execFeed_next_responses ha h <;> exact ⟨[_], hr, List.forall_mem_singleton.mpr nofun⟩
  · obtain ⟨-, -, rfl⟩ | ⟨hn, -⟩ := State.completeParser_next h
    · exact ⟨[_], rfl, List.forall_mem_singleton.mpr nofun⟩
    · exact absurd ha hn
  · rw [exec_feedChunk hf] at h
    rw [State.feedChunk_next_admitted ha h]
    obtain ⟨rs, hrs, hmem⟩ := s.afterChunk_responses_mem bs 0
    refine ⟨rs, hrs, fun r hr => ?_⟩
    obtain rfl | rfl := hmem r hr <;> nofun

/-- A command answers FAULT exactly by R122's conditions. -/
theorem State.faultsWith_iff {i : Instr} {s : State} (ha : s.admitted) :
    (∃ code, s.faultsWith i code) ↔ Instr.Faults i s.parser := by
  constructor
  · rintro ⟨code, r, hr, hfault, -⟩
    obtain ⟨rs, hrs, hcause⟩ := exec_next_fault ha hr
    obtain rfl : [r] = rs := List.append_cancel_right hrs
    exact hcause r (List.mem_singleton_self r) hfault
  · intro h
    obtain ⟨c, hc, -⟩ := State.answers_faulted ha h
    exact ⟨c.code, _, hc, rfl, rfl⟩

theorem FaultCode.code_eq_one_iff {c : FaultCode} : c.code = 0x01 ↔ c = .toFrameNotReady := by cases c <;> decide

theorem FaultCode.code_eq_two_iff {c : FaultCode} : c.code = 0x02 ↔ c ≠ .toFrameNotReady := by cases c <;> decide

/-- A run keeps its responses, so one FAULT spoils every later state (R151). -/
theorem State.not_goodRun_of_fault {n : Nat} {t u : State} {r : Response} (hr : r ∈ t.responses)
    (hfault : r.outcome = .fault) (hrun : t.runSteps n = .next u) : ¬ u.goodRun := fun hgood => by
  obtain ⟨hno, -⟩ := hgood r ((State.runSteps_extends hrun).responses.mem hr)
  exact hno hfault

/-- Settles O11: without one of the two causes no response is FAULT; with one the FAULT is the command's only response, and the
only change. -/
theorem faultResponsesAreExactlyTheTwoCauses : Obligations.FaultResponsesAreExactlyTheTwoCauses := by
  intro i s t ha h
  have htoFrame : i = .toFrame ∧ s.parser.cls ≠ .noError → s.faultsWith i 0x01 := by
    rintro ⟨rfl, hc⟩
    exact ⟨_, State.answers_toFrame_notReady ha hc, rfl, rfl⟩
  have hencode (f : Frame) : i = .encode f ∧ 253 < f.payload.length → s.faultsWith i 0x02 := by
    rintro ⟨rfl, hlong⟩
    exact ⟨_, State.answers_encode_tooLong ha hlong, rfl, rfl⟩
  by_cases hcause : Instr.Faults i s.parser
  · obtain ⟨c, hc, hcode⟩ := State.answers_faulted ha hcause
    obtain rfl : s.respond (.faulted c) = t := Host.Outcome.next.inj (hc.symm.trans h)
    refine ⟨[.faulted c], rfl, iff_of_true ⟨_, List.mem_singleton_self _, rfl⟩ hcause, htoFrame, hencode,
      List.forall_mem_singleton.mpr fun _ => ⟨rfl, ?_, ?_, fun n u => ?_⟩⟩
    · exact FaultCode.code_eq_one_iff.trans hcode
    · exact FaultCode.code_eq_two_iff.trans (not_congr hcode)
    · exact State.not_goodRun_of_fault List.mem_cons_self rfl
  · obtain ⟨rs, hrs, hfault⟩ := exec_next_fault ha h
    have hnone (r : Response) (hr : r ∈ rs) (ho : r.outcome = .fault) : False := hcause (hfault r hr ho)
    exact ⟨rs, hrs, iff_of_false (fun ⟨r, hr, ho⟩ => hnone r hr ho) hcause, htoFrame, hencode,
      fun r hr ho => (hnone r hr ho).elim⟩

end Sys2Proof.Machine
end

section
/-!
SUPPORT. Done (60_exceptions R124, R126, R127): what entering it writes, which FEEDs it holds, and that RESET alone leaves it.
-/
namespace Sys2Proof.Machine

/-! ### Entering Done and leaving it (R126, R127) -/

/-- A FEED that takes the parser into Done consumed its byte, in the admitted configuration, and entered Done. -/
theorem execFeed_enters_done {b : Byte} {s t : State} (hd : s.parser.st ≠ .done) (h : execFeed b s = .next t)
    (hd' : t.parser.st = .done) : s.admitted ∧ ∃ c, t = s.afterFeed (s.parser.enterDone c) := by
  rw [execFeed_consumed hd] at h
  obtain ⟨ha, -, rfl⟩ | ⟨-, rfl⟩ := State.completeParser_next h
  · obtain ⟨c, -, hc⟩ | ⟨hn, -⟩ := feedByte_enters_done_or_keeps_cls hd b
    · exact ⟨ha, c, by rw [hc]; rfl⟩
    · exact absurd hd' hn
  · exact absurd hd' hd

/-- Settles O31: `enterDone` writes `cls` and `st`, so TOFRAME finds the other registers as the FEED found them. -/
theorem enteringDoneWritesOnlyClsAndSt : Obligations.EnteringDoneWritesOnlyClsAndSt := by
  refine ⟨fun b s t hd h hd' => ?_, fun b s t hd h hc hd' => ?_⟩ <;>
    obtain ⟨ha, c, rfl⟩ := execFeed_enters_done hd h hd'
  · exact ⟨rfl, rfl, rfl, rfl, rfl⟩
  · exact State.answers_toFrame ha hc rfl

/-- RESET restores the reset registers (R31, R111). -/
theorem exec_reset_admitted {s : State} (ha : s.admitted) :
    exec .reset s = .next (State.respond { s with parser := ParserRegs.reset } (.okData 0x00)) :=
  State.completeParser_admitted ha (pbufOverflowed_of_le (Nat.zero_le _)) _

/-- A parser in Done takes no byte, so only RESET changes its registers. -/
theorem exec_next_parser_of_done {i : Instr} {s t : State} (hd : s.parser.st = .done) (h : exec i s = .next t)
    (hi : i ≠ .reset) : t.parser = s.parser := by
  obtain hp | ⟨hreset, -⟩ | ⟨bs, hp⟩ := exec_next_parser h
  · exact hp
  · exact absurd hreset hi
  · rw [hp, offerBytes_done hd]

/-- Settles O32: no byte is taken in Done, and RESET writes the reset values. -/
theorem onlyResetLeavesDone : Obligations.OnlyResetLeavesDone :=
  ⟨fun _ _ _ => exec_next_parser_of_done, fun _ => exec_reset_admitted⟩

/-! ### HOLD (R124) -/

theorem exists_singleton_outcome_iff {r : Response} {o : OutcomeCode} :
    (∃ q, q ∈ [r] ∧ q.outcome = o) ↔ r.outcome = o := by
  simp

/-- A chunk answers HOLD exactly where it leaves a byte. -/
theorem State.afterChunk_hold (s : State) (bs : List Byte) (n : Nat) :
    ∃ rs, (s.afterChunk bs n).responses = rs ++ s.responses ∧
      ((∃ r, r ∈ rs ∧ r.outcome = .hold) ↔ (offerBytes s.parser bs).2 < bs.length) := by
  refine ⟨_, rfl, ?_⟩
  constructor
  · rintro ⟨r, hr, ho⟩
    obtain hr | hr := List.mem_append.mp hr
    · exact Decidable.byContradiction fun hwhole => by simp [hwhole] at hr
    · obtain rfl := List.eq_of_mem_replicate hr
      cases ho
  · intro hshort
    exact ⟨.held, by simp [hshort], rfl⟩

/-- The FEED is held in Done, and there only. -/
theorem execFeed_next_hold {b : Byte} {s t : State} (ha : s.admitted) (h : execFeed b s = .next t) :
    ∃ r, t.responses = r :: s.responses ∧ (r.outcome = .hold ↔ s.parser.st = .done) := by
  by_cases hd : s.parser.st = .done
  · rw [execFeed_held hd, State.answer_admitted ha] at h
    cases h
    exact ⟨_, rfl, iff_of_true rfl hd⟩
  · rw [execFeed_consumed hd] at h
    obtain ⟨-, -, rfl⟩ | ⟨hn, -⟩ := State.completeParser_next h
    · exact ⟨_, rfl, iff_of_false nofun hd⟩
    · exact absurd ha hn

theorem fedBytes_of_not_writesParser {i : Instr} (hi : writesParser i = false) : fedBytes i = none := by
  cases i with
  | decode | frameFixed | frameVariable => cases hi
  | _ => rfl

/-- The HOLD among a command's responses: a FEED's in Done, and a chunk's that leaves a byte. -/
theorem exec_next_hold {i : Instr} {s t : State} (ha : s.admitted) (h : exec i s = .next t) :
    ∃ rs, t.responses = rs ++ s.responses ∧ ((∃ r, r ∈ rs ∧ r.outcome = .hold) ↔
      (s.parser.st = .done ∧ ∃ b, i = .feed b) ∨
      (t.parser.st = .done ∧ ∃ bs n, fedBytes i = some bs ∧ t.lastCount = some n ∧ n < bs.length)) := by
  obtain hw | ⟨b, rfl⟩ | rfl | ⟨bs, hf⟩ := instr_form_cases i
  · obtain ⟨r, hr, hhold, -⟩ := exec_answer_outcome hw s
    rw [hr, State.answer_admitted ha] at h
    cases h
    refine ⟨[r], rfl, iff_of_false (mt exists_singleton_outcome_iff.mp hhold) ?_⟩
    rintro (⟨-, b, rfl⟩ | ⟨-, bs, n, hf, -⟩)
    · cases hw
    · rw [fedBytes_of_not_writesParser hw] at hf
      cases hf
  · obtain ⟨r, hr, hhold⟩ := execFeed_next_hold ha h
    refine ⟨[r], hr, exists_singleton_outcome_iff.trans (hhold.trans ⟨fun hd => .inl ⟨hd, b, rfl⟩, ?_⟩)⟩
    rintro (⟨hd, -⟩ | ⟨-, bs, n, hf, -⟩)
    · exact hd
    · cases hf
  · rw [exec_reset_admitted ha] at h
    cases h
    refine ⟨[_], rfl, iff_of_false (mt exists_singleton_outcome_iff.mp nofun) ?_⟩
    rintro (⟨-, b, hb⟩ | ⟨-, bs, n, hf, -⟩)
    · cases hb
    · cases hf
  · rw [exec_feedChunk hf] at h
    obtain rfl := State.feedChunk_next_admitted ha h
    obtain ⟨rs, hrs, hhold⟩ := s.afterChunk_hold bs 0
    have hcount : (s.afterChunk bs 0).lastCount = some (offerBytes s.parser bs).2 := by
      rw [State.lastCount, State.afterChunk_counts, Nat.zero_add]
      rfl
    refine ⟨rs, hrs, hhold.trans ⟨fun hshort => .inr ⟨offerBytes_short hshort, bs, _, hf, hcount, hshort⟩, ?_⟩⟩
    rintro (⟨-, b, rfl⟩ | ⟨-, bs', n, hf', hn, hshort⟩)
    · cases hf
    · cases hf.symm.trans hf'
      cases hcount.symm.trans hn
      exact hshort

/-- Settles O28: the held FEED in each form of command; only RESET takes the parser out of Done. -/
theorem theOneHold : Obligations.TheOneHold := by
  refine ⟨fun i s t => exec_next_hold, fun b s ha hd => exec_feed_held ha hd b, fun i b s t ha hd h => ⟨?_, fun hi => ?_⟩⟩
  · rintro rfl
    rw [exec_reset_admitted ha] at h
    cases h
    exact ⟨_, exec_feed_consumed (s := State.respond { s with parser := ParserRegs.reset } _) ha nofun nofun b, rfl⟩
  · have ha' : t.admitted := (exec_extends h).addrBytes.trans ha
    exact exec_feed_held ha' (by rw [exec_next_parser_of_done hd h hi, hd]) b

end Sys2Proof.Machine
end

section
/-!
SUPPORT. The classification a byte gives (60_exceptions R120, R121, R125): five causes of BadFormat, one of CheckError, and which
condition wins.
-/
namespace Sys2Proof.Machine

/-! ### The end byte -/

theorem endClass_eq_badFormat_iff {p : ParserRegs} {b : Byte} : endClass p b = .badFormat ↔ b ≠ 0x16 := by
  refine ⟨?_, endClass_of_ne⟩
  rintro h rfl
  by_cases hsum : cs8 p.ctrl p.addr p.pbuf = p.csrx
  · rw [endClass_of_sum_eq hsum] at h
    cases h
  · rw [endClass_of_sum_ne hsum] at h
    cases h

theorem endClass_eq_checkError_iff {p : ParserRegs} {b : Byte} :
    endClass p b = .checkError ↔ b = 0x16 ∧ cs8 p.ctrl p.addr p.pbuf ≠ p.csrx := by
  constructor
  · intro h
    have hb : b = 0x16 := Decidable.byContradiction fun hb => by
      rw [endClass_of_ne hb] at h
      cases h
    subst hb
    refine ⟨rfl, fun hsum => ?_⟩
    rw [endClass_of_sum_eq hsum] at h
    cases h
  · rintro ⟨rfl, hsum⟩
    exact endClass_of_sum_ne hsum

/-! ### The causes of BadFormat (R120) -/

/-- The named causes in the rule's literals. -/
theorem BadFormatCause.exists_holds_iff {p : ParserRegs} {b : Byte} : (∃ c : BadFormatCause, c.holds p b = true) ↔
    (p.st = .awaitStart ∧ b ≠ 0x10 ∧ b ≠ 0x68) ∨
    (p.st = .awaitRepeatedStart ∧ (b ≠ 0x68 ∨ p.len0 ≠ p.len1 ∨ p.len0.toNat < 3)) ∨
    (p.st = .awaitEnd ∧ b ≠ 0x16) := by
  constructor
  · rintro ⟨c, hc⟩
    cases c with
    | bfStart => exact .inl (by simpa [BadFormatCause.holds, and_assoc] using hc)
    | bfRestart =>
      obtain ⟨hs, hb⟩ : p.st = .awaitRepeatedStart ∧ b ≠ 0x68 := by simpa [BadFormatCause.holds] using hc
      exact .inr (.inl ⟨hs, .inl hb⟩)
    | bfLenPair =>
      obtain ⟨hs, hpair⟩ : p.st = .awaitRepeatedStart ∧ p.len0 ≠ p.len1 := by simpa [BadFormatCause.holds] using hc
      exact .inr (.inl ⟨hs, .inr (.inl hpair)⟩)
    | bfLenMin =>
      obtain ⟨hs, hmin⟩ : p.st = .awaitRepeatedStart ∧ p.len0.toNat < 3 := by simpa [BadFormatCause.holds] using hc
      exact .inr (.inl ⟨hs, .inr (.inr hmin)⟩)
    | bfEnd => exact .inr (.inr (by simpa [BadFormatCause.holds] using hc))
  · rintro (⟨hs, hb⟩ | ⟨hs, hb | hpair | hmin⟩ | ⟨hs, hb⟩)
    · exact ⟨.bfStart, by simpa [BadFormatCause.holds, hs] using hb⟩
    · exact ⟨.bfRestart, by simpa [BadFormatCause.holds, hs] using hb⟩
    · exact ⟨.bfLenPair, by simpa [BadFormatCause.holds, hs] using hpair⟩
    · exact ⟨.bfLenMin, by simpa [BadFormatCause.holds, hs] using hmin⟩
    · exact ⟨.bfEnd, by simpa [BadFormatCause.holds, hs] using hb⟩

/-! ### What a byte leaves in `cls` -/

theorem feedAwaitStart_cls (p : ParserRegs) (b : Byte) :
    (feedAwaitStart p b).cls = if b ≠ 0x10 ∧ b ≠ 0x68 then .badFormat else p.cls := by
  by_cases hbad : b ≠ 0x10 ∧ b ≠ 0x68
  · obtain ⟨h10, h68⟩ := hbad
    rw [if_pos ⟨h10, h68⟩, feedAwaitStart, if_neg h10, if_neg h68, ParserRegs.enterDone_cls]
  · rw [if_neg hbad, feedAwaitStart]
    split_ifs with h10 h68
    · rfl
    · rfl
    · exact absurd ⟨h10, h68⟩ hbad

theorem feedAwaitRepeatedStart_cls (p : ParserRegs) (b : Byte) :
    (feedAwaitRepeatedStart p b).cls =
      if b ≠ 0x68 ∨ p.len0 ≠ p.len1 ∨ p.len0.toNat < 3 then .badFormat else p.cls := by
  have hbad : ¬ repeatedStartOk p b = true ↔ b ≠ 0x68 ∨ p.len0 ≠ p.len1 ∨ p.len0.toNat < 3 := by
    rw [repeatedStartOk_iff, not_and_or, not_and_or, not_le]
  rw [feedAwaitRepeatedStart, apply_ite ParserRegs.cls, ← ite_not]
  exact if_congr hbad rfl rfl

/-- The states that end no frame keep `cls`. -/
theorem feedByte_keeps_cls {p : ParserRegs} (hd : p.st ≠ .done)
    (hs : ¬ (p.st = .awaitStart ∨ p.st = .awaitRepeatedStart ∨ p.st = .awaitEnd)) (b : Byte) :
    (feedByte p b).cls = p.cls := by
  obtain ⟨c, -, hc⟩ | ⟨-, hcls⟩ := feedByte_enters_done_or_keeps_cls hd b
  · exact absurd (feedByte_enters_done hd (by rw [hc]; rfl)) hs
  · exact hcls

theorem ite_badFormat_eq_badFormat_iff {P : Prop} [Decidable P] :
    (if P then Classification.badFormat else .needMoreData) = .badFormat ↔ P := by
  by_cases h : P <;> simp [h]

theorem ite_badFormat_ne_checkError {P : Prop} [Decidable P] :
    (if P then Classification.badFormat else .needMoreData) ≠ .checkError := by
  by_cases h : P <;> simp [h]

/-- Outside Done, where `cls` is NeedMoreData, a byte makes it BadFormat by R120's causes alone. -/
theorem feedByte_cls_eq_badFormat_iff {p : ParserRegs} (hc : p.cls = .needMoreData) (hd : p.st ≠ .done) {b : Byte} :
    (feedByte p b).cls = .badFormat ↔ ∃ c : BadFormatCause, c.holds p b = true := by
  rw [BadFormatCause.exists_holds_iff]
  by_cases hends : p.st = .awaitStart ∨ p.st = .awaitRepeatedStart ∨ p.st = .awaitEnd
  · obtain hs | hs | hs := hends
    · rw [feedByte_awaitStart hs, feedAwaitStart_cls, hc, ite_badFormat_eq_badFormat_iff]
      simp only [hs, reduceCtorEq, true_and, false_and, or_false]
    · rw [feedByte_awaitRepeatedStart hs, feedAwaitRepeatedStart_cls, hc, ite_badFormat_eq_badFormat_iff]
      simp only [hs, reduceCtorEq, true_and, false_and, or_false, false_or]
    · rw [feedByte_awaitEnd hs, feedAwaitEnd, ParserRegs.enterDone_cls, endClass_eq_badFormat_iff]
      simp only [hs, reduceCtorEq, true_and, false_and, false_or]
  · rw [feedByte_keeps_cls hd hends, hc]
    exact iff_of_false nofun (by tauto)

/-- There a byte makes it CheckError by R121's cause alone. -/
theorem feedByte_cls_eq_checkError_iff {p : ParserRegs} (hc : p.cls = .needMoreData) (hd : p.st ≠ .done) {b : Byte} :
    (feedByte p b).cls = .checkError ↔
      p.st = .awaitEnd ∧ b = 0x16 ∧ cs8 p.ctrl p.addr p.pbuf ≠ p.csrx := by
  by_cases hends : p.st = .awaitStart ∨ p.st = .awaitRepeatedStart ∨ p.st = .awaitEnd
  · obtain hs | hs | hs := hends
    · rw [feedByte_awaitStart hs, feedAwaitStart_cls, hc]
      exact iff_of_false ite_badFormat_ne_checkError (by simp [hs])
    · rw [feedByte_awaitRepeatedStart hs, feedAwaitRepeatedStart_cls, hc]
      exact iff_of_false ite_badFormat_ne_checkError (by simp [hs])
    · rw [feedByte_awaitEnd hs, feedAwaitEnd, ParserRegs.enterDone_cls, endClass_eq_checkError_iff]
      simp only [hs, true_and]
  · rw [feedByte_keeps_cls hd hends, hc]
    exact iff_of_false nofun (by tauto)

/-- Settles O30: outside Done the invariant has `cls` NeedMoreData, so what the FEED leaves there is its byte's classification. -/
theorem feedClassifiesByItsCauses : Obligations.FeedClassifiesByItsCauses := by
  intro b s t ha hinv hd h
  have hc : s.parser.cls = .needMoreData := hinv.1.mpr hd
  have hbad := feedByte_cls_eq_badFormat_iff hc hd (b := b)
  rw [execFeed_next_parser_admitted ha h]
  exact ⟨hbad.trans BadFormatCause.exists_holds_iff, hbad, feedByte_cls_eq_checkError_iff hc hd⟩

/-- Settles O29: the end byte is checked before the sum, a failing length decides for BadFormat whatever the byte, each of the two
faulting commands has one condition, and a reserved word is refused before ADDR_BYTES is looked at. -/
theorem priorityOfConditions : Obligations.PriorityOfConditions := by
  refine ⟨fun b s t ha hs h => ?_, fun b b' s t t' ha hs hlen h h' => ?_, fun s ha => ?_, fun f s ha => ?_,
    fun w f e s rest he hp => ⟨_, step_of_reserved hp he, _, rfl, rfl, rfl⟩⟩
  · rw [execFeed_next_parser_admitted ha h, feedByte_awaitEnd hs, feedAwaitEnd, ParserRegs.enterDone_cls]
    exact ⟨endClass_eq_badFormat_iff, endClass_eq_checkError_iff⟩
  · have hreject (x : Byte) : exec (.feed x) s = .next (s.afterFeed { s.parser with cls := .badFormat, st := .done }) :=
      (feedInAwaitRepeatedStart x s ha hs).2 (.inr hlen)
    cases (hreject b).symm.trans h
    cases (hreject b').symm.trans h'
    exact ⟨rfl, rfl⟩
  · rw [State.faultsWith_iff ha]
    simp [Instr.Faults]
  · rw [State.faultsWith_iff ha]
    simp [Instr.Faults]

end Sys2Proof.Machine
end

section
/-!
SUPPORT. Power-on (70_reset_and_hazards R137, R138, R140) and how a run ends (R151): what the responses of a command add to its
observation, and when they keep the run good.
-/
namespace Sys2Proof.Machine

/-- Settles O5: the reset registers are R31's literals, and RESET writes them. -/
theorem powerOnIsTheResetState : Obligations.PowerOnIsTheResetState :=
  ⟨rfl, rfl, rfl, rfl, rfl, rfl, rfl, rfl, rfl, fun _ => exec_reset_admitted⟩

/-! ### What new responses add to a run -/

section
variable {s t : State} {rs : List Response} (h : t.responses = rs ++ s.responses)
include h

/-- The responses are kept newest first and observed in the order of their delivery. -/
theorem State.observation_of_append : t.observation = (s.observation.1 ++ rs.reverse, t.parser) := by
  rw [State.observation, h, List.reverse_append]
  rfl

theorem State.goodRun_iff_of_append : t.goodRun ↔ s.goodRun ∧ ∀ r ∈ rs, r.good := by
  rw [State.goodRun, h, List.forall_mem_append, and_comm]

theorem State.goodRun_iff_of_good (hgood : ∀ r ∈ rs, r.good) : t.goodRun ↔ s.goodRun :=
  (State.goodRun_iff_of_append h).trans (and_iff_left hgood)

end

theorem Response.good_okData (d : Byte) : (Response.okData d).good := ⟨nofun, nofun⟩

theorem Response.good_held : Response.held.good := ⟨nofun, nofun⟩

/-! ### The held FEED -/

theorem State.respond_held_waitingForReset (s : State) : (s.respond .held).waitingForReset := rfl

theorem State.respond_held_goodRun_iff (s : State) : (s.respond .held).goodRun ↔ s.goodRun :=
  State.goodRun_iff_of_good (rs := [.held]) rfl (List.forall_mem_singleton.mpr Response.good_held)

/-- A chunk returns the number of bytes it consumed. -/
theorem State.afterChunk_lastCount (s : State) (bs : List Byte) :
    (s.afterChunk bs 0).lastCount = some (offerBytes s.parser bs).2 := by
  rw [State.lastCount, State.afterChunk_counts, Nat.zero_add]
  rfl

/-- The HOLD of a chunk that leaves a byte is its last response. -/
theorem State.afterChunk_waitingForReset {s : State} {bs : List Byte} (hshort : (offerBytes s.parser bs).2 < bs.length)
    (n : Nat) : (s.afterChunk bs n).waitingForReset := by
  simp [State.waitingForReset, State.lastOutcome, State.afterChunk, hshort, Response.held]

/-- A chunk answers OK and HOLD alone, so it leaves the run as good as it was. -/
theorem State.afterChunk_goodRun_iff (s : State) (bs : List Byte) (n : Nat) :
    (s.afterChunk bs n).goodRun ↔ s.goodRun := by
  obtain ⟨rs, hrs, hmem⟩ := s.afterChunk_responses_mem bs n
  refine State.goodRun_iff_of_good hrs fun r hr => ?_
  obtain rfl | rfl := hmem r hr
  · exact Response.good_okData _
  · exact Response.good_held

/-- Settles O15: a command only adds responses, a held FEED adds a HOLD and a chunk adds OKs and a HOLD; the last clause is the
invariant's first. -/
theorem runEndsByItsResponses : Obligations.RunEndsByItsResponses := by
  refine ⟨nofun, rfl, fun i s t h => ?_, fun b s t ha hd h => ?_, fun i bs n s t ha hf h hn hshort => ?_,
    fun s t hs h => (step_inv hs h).1⟩
  · obtain ⟨rs, hrs⟩ := (exec_extends h).responses
    exact ⟨rs, hrs.symm, State.observation_of_append hrs.symm, State.goodRun_iff_of_append hrs.symm⟩
  · obtain rfl : s.respond .held = t := Host.Outcome.next.inj ((exec_feed_held ha hd b).symm.trans h)
    exact ⟨s.respond_held_waitingForReset, s.respond_held_goodRun_iff⟩
  · rw [exec_feedChunk hf] at h
    obtain rfl := State.feedChunk_next_admitted ha h
    obtain rfl : (offerBytes s.parser bs).2 = n := Option.some.inj ((s.afterChunk_lastCount bs).symm.trans hn)
    exact ⟨State.afterChunk_waitingForReset hshort 0, s.afterChunk_goodRun_iff bs 0⟩

end Sys2Proof.Machine
end
